-- ==== Sys2Proof/Word.lean ====
section
/-! DEFINITION. The widths of the block's values (00_scope.md R5, 40_frame_codec.md R82): every value is an
unsigned bit vector of fixed width. -/

namespace Sys2Proof

/-- One frame of bus exchange, sent or received: FRAME_W = 16 bits (R5, R55). Bit 15 is the first bit on the
wire in each direction (R7, R33). -/
abbrev Frame := BitVec 16

/-- One host command word: CMD_W = 20 bits (R5, R60). -/
abbrev CmdWord := BitVec 20

/-- A register's content, a frame's payload, a command word's field A or D: DATA_W = 8 bits (R5). -/
abbrev Byte := BitVec 8

/-- A register address: ADDR_W = 6 bits, group in bits [5:2], sub in bits [1:0] (R5, R75). -/
abbrev RegAddr := BitVec 6

/-- The level of one line: 1 is high, 0 is low (R16). -/
abbrev Level := BitVec 1

end Sys2Proof
end

