-- ==== Sys2Proof/Config.lean ====
section
/-! DEFINITION. What is fixed for one machine: the open parameters of 00_scope.md R6, each an uninterpreted
constant, and the free values the spec leaves open (93_implementation_defined.md), each an uninterpreted function
of the draw counter State holds. Nothing in Lean can evaluate any of them (log entries 3 and 10). -/

namespace Sys2Proof

/-- ADDR_MAPIN1, 6 bits, open (R6, R24, 90_conflicts.md C1). -/
opaque Config.addrMapin1 : RegAddr

/-- DIAG_REQ_FRAME less one. DIAG_REQ_FRAME is open but for DIAG_REQ_FRAME ≠ 0x0000 (R6, R59), so it is one of
65535 values, and this number says which. -/
opaque Config.diagReqIndex : Fin 65535

/-- DIAG_REQ_FRAME, 16 bits, open, never 0x0000 (R6, R59). -/
def Config.diagReqFrame : Frame := BitVec.ofNat 16 (Config.diagReqIndex.val + 1)

/-- The position of the ACT bit in HWCR, open (R6, R22). -/
opaque Config.hwcrActBit : Fin 8

/-- HWCR_ACT_MASK, 8 bits with exactly one bit set, at an open position (R6, R22). -/
def Config.hwcrActMask : Byte := 1#8 <<< Config.hwcrActBit.val

/-- HWCR_ACTIVE_BASELINE, 8 bits, open (R6). No relation to HWCR_ACT_MASK is assumed (92_eei_decisions.md D17). -/
opaque Config.hwcrActiveBaseline : Byte

/-- MAPIN0_DEFAULT, 8 bits, open (R6). -/
opaque Config.mapin0Default : Byte

/-- MAPIN1_DEFAULT, 8 bits, open (R6). -/
opaque Config.mapin1Default : Byte

/-- DIAG_IOL_DEFAULT, 8 bits, open (R6). -/
opaque Config.diagIolDefault : Byte

/-- T_SETTLE, open (R6). No rule of the spec depends on its value and the model has no time (R143, R166), so
nothing reads it: the delay element's answers stand in State as `settle`. -/
opaque Config.tSettle : Nat

/-- Which further values the transport adapter's fault information has, open (R6, U11). -/
opaque Config.faultInfoAlso : Nat → Bool

/-- The numbers of the values of FaultInfo: 0, since a fault carries some value, and whichever others there are. -/
def Config.isFaultInfo (code : Nat) : Bool := code == 0 || Config.faultInfoAlso code

/-- The transport adapter's fault information, an open type (R6, U11, R133): its values are those natural numbers that
`Config.isFaultInfo` admits, so it may be any type that has a value and whose values can be numbered. DESIGN CHOICE, log
entry 2. -/
structure FaultInfo where
  code : Nat
  admitted : Config.isFaultInfo code = true
  deriving DecidableEq, Repr

/-- The number a free `finfo` is taken from, one per draw. -/
opaque Config.freeFinfoCode : Nat → Nat

/-- The `finfo` of a response whose status is not 1, one per draw (R62, U12): any value of FaultInfo. -/
def Config.freeFinfo (draw : Nat) : FaultInfo :=
  if h : Config.isFaultInfo (Config.freeFinfoCode draw) = true then ⟨Config.freeFinfoCode draw, h⟩ else ⟨0, rfl⟩

/-- The eight latches of HWCR_OCL where they are not known, one per draw of the device (R23, U5, U18). -/
opaque Config.freeLatches : Nat → Byte

/-- The frame an exchange receives where nothing fixes it, one per draw (U1 to U5, U7; R37). -/
opaque Config.freeFrame : Nat → Frame

/-- CR after the input `rst` was applied, one per draw (R27, R150, U12). -/
opaque Config.freeCr : Nat → CmdWord

/-- DR after the input `rst` was applied, one per draw (R27, R150, U12). -/
opaque Config.freeDr : Nat → BitVec 16

end Sys2Proof
end

