-- ==== Sys2Proof/Machine/State.lean ====
section
/-! DEFINITION. State: the block's six state elements (10_state.md R10), and beside them, as plain data, what stands
at the block's ports (R19): what the host, the reset input, the transport adapter and the delay element will do, what
is assumed of the device, and the record of what the block did. -/

namespace Sys2Proof.Machine

/-- PHASE, 1 bit: IDLE = 0, RUN = 1 (R10, R11). -/
inductive Phase where
  | idle
  | run
  deriving DecidableEq, Repr

/-- PEND, the pending-response slot: what the next received frame answers (R15). -/
inductive Pend where
  | none
  | wrStatus
  | rdData
  | rdTrail
  | diagWord
  deriving DecidableEq, Repr

/-- What the transport adapter does when the block asks for an exchange (R36, R148). -/
inductive Answer where
  /-- The exchange returned these 16 received bits. -/
  | rx (w : Frame)
  /-- The exchange returned `fault(info)`; whether the device took the frame is not in the spec (R36, U10), so both
  are possible. -/
  | fault (info : FaultInfo) (delivered : Bool)
  /-- The exchange has not returned yet (R148, U9). -/
  | pending
  /-- The exchange never returns; only a reset ends it (R148, U9). -/
  | never
  deriving DecidableEq, Repr

/-- One step's `wait_done` while the block is at a `WAIT` (R19, R143). -/
inductive WaitDone where
  | low
  | high
  /-- Low for ever; only a reset ends the wait (R148, U9). -/
  | never
  deriving DecidableEq, Repr

/-- One step's level of the input `rst` (R150). -/
inductive ResetLevel where
  | low
  /-- High; `delivered` says whether the device took the frame of an exchange in flight at that moment, which the spec
  leaves open (R151, U19). -/
  | high (delivered : Bool)
  deriving DecidableEq, Repr

/-- RSP, the response to the host (R62). -/
structure Response where
  status : BitVec 2
  data : BitVec 16
  finfo : FaultInfo
  deriving DecidableEq, Repr

/-- What the world outside the block can see it do, one entry per transaction (R19). -/
inductive Event where
  /-- Accept of a legal command word (R91). -/
  | accepted (w : CmdWord)
  /-- A frame was handed to an exchange that returned, or that a fault or a reset ended (R36). -/
  | sent (tx : Frame)
  /-- `PIN(level)` drove the mode-control line (R90). -/
  | pin (level : Level)
  /-- A `WAIT` ended (R90). -/
  | settled
  /-- Respond (R62). -/
  | responded (r : Response)
  /-- Reset was applied; `abandoned` says whether a command was running (R150, R151). -/
  | resetDone (abandoned : Bool)
  deriving DecidableEq, Repr

/-- The device's register space, as far as it is known (20_memory.md R30): (address, content) pairs, addresses strictly
rising and below 64. An address that is not listed holds a content nobody knows (R152, U5, U7). -/
abbrev Memory := List Host.Cell

/-- A device at the far end of the bus that obeys 20_memory.md R38 to R40 (assumed of it, never checked by the block). -/
structure Device where
  /-- The registers whose content is known. -/
  regs : Memory
  /-- The addresses of its ordinary registers: a write frame makes such a register hold the value (R40). What a write
  does at any other address but HWCR_OCL is not known (U7). -/
  ordinary : List RegAddr
  /-- The hidden response register (R26): what it will shift out in the next exchange. `some b` is a frame whose low
  byte is `b` (R39); with `none` all sixteen bits are open (R25, R39, U1, U3, U4). -/
  owed : Option Byte
  /-- What the device itself changes before each coming exchange, one entry per exchange; no entry, no change
  (R45, R162, U17). -/
  changes : List (Option Host.Cell)
  /-- The mode-control line went low and has not gone high since; nothing is said of such a device (U18). -/
  asleep : Bool
  /-- The model's own counter: how many free contents of HWCR_OCL were drawn. -/
  draws : Nat
  deriving DecidableEq, Repr

structure State where
  /-- PHASE (R11). -/
  phase : Phase
  /-- UPC, 4 bits (R12). -/
  upc : BitVec 4
  /-- CR, 20 bits (R13). -/
  cr : CmdWord
  /-- DR, 16 bits (R14). -/
  dr : BitVec 16
  /-- PEND (R15). -/
  pend : Pend
  /-- MODE, 1 bit (R16). -/
  mode : Level
  /-- The command port: the words the host offers, in order, the first of them now; empty is `cmd_valid` low (R19). -/
  offers : List CmdWord
  /-- The input `rst` in the coming steps; after the last entry it stays low (R19, R150). -/
  rst : List ResetLevel
  /-- The adapter's answers to the coming exchanges, any at all (R37). -/
  script : List Answer
  /-- The input `wait_done` while the block is at a `WAIT`; after the last entry it is high (R19, R143). -/
  settle : List WaitDone
  /-- The device assumed at the far end once `script` is used up; `none` assumes nothing of it (R37). -/
  device : Option Device
  /-- The model's own counter: how many free values were drawn. -/
  draws : Nat
  /-- What the block did, oldest first. -/
  trace : List Event
  deriving DecidableEq, Repr

/-- Why a step stops. Both are raised only in states no run reaches (Safety.lean, `State.Inv`); each is safe. -/
inductive Fault where
  /-- Raised by a command's meaning: PHASE = RUN and UPC is beyond the micro-program's end. R91 has no step there; UPC
  values 13 to 15 are unreachable (R12, U15; log entry 9). Safe. -/
  | upcPastEnd
  /-- Raised by step: PHASE = RUN and CR holds no legal command, against R11 (log entry 9). Safe. -/
  | noCommandInCr
  deriving DecidableEq, Repr

inductive Refusal where
  /-- Raised by exec's own arms for an instruction that has no meaning yet. Safe. -/
  | notModelled (mnemonic : String)
  /-- Raised by the meaning of a frame where the running micro-program is not at an exchange of that very frame: the
  block has no raw exchange (R102, R156; 92_eei_decisions.md D14). Safe. -/
  | frameNotDue
  deriving DecidableEq, Repr

/-- After reset (R27, R150). CR and DR are unspecified there; 0 is named for both: DESIGN CHOICE, log entry 1. Nothing
stands at the ports and nothing is assumed of the device (R152). -/
def State.reset : State where
  phase := .idle
  upc := 0
  cr := 0
  dr := 0
  pend := .none
  mode := 0
  offers := []
  rst := []
  script := []
  settle := []
  device := none
  draws := 0
  trace := []

end Sys2Proof.Machine
end

