-- ==== Sys2Proof/Machine/Memory.lean ====
section
/-! DEFINITION. The device's register space (20_memory.md R30, R31): 64 addresses, each one 8-bit register, held as
what is known of it. -/

namespace Sys2Proof.Machine

/-- What an address that is not listed reads as: nothing is known of it (R152, U5, U7). A frame that carries such a
register's content carries free bits (log entry 16). -/
def Memory.unlisted : Option Byte := none

/-- The canonical form: addresses strictly rising, each below 64. No entry says what an unlisted address says, since an
entry always holds a known byte. -/
abbrev Memory.wf (m : Memory) : Prop :=
  m.Pairwise (fun c c' => c.1 < c'.1) ∧ ∀ c ∈ m, c.1 < 64

/-- The content of a register, where it is known. -/
def Memory.read (m : Memory) (a : RegAddr) : Option Byte :=
  match m with
  | [] => Memory.unlisted
  | (k, b) :: rest => if k = a.toNat then some b else Memory.read rest a

/-- The register holds `b` from now on. -/
def Memory.write (m : Memory) (a : RegAddr) (b : Byte) : Memory :=
  match m with
  | [] => [(a.toNat, b)]
  | (k, c) :: rest =>
    if a.toNat < k then (a.toNat, b) :: (k, c) :: rest
    else if k = a.toNat then (a.toNat, b) :: rest
    else (k, c) :: Memory.write rest a b

/-- The register's content is no longer known. -/
def Memory.forget (m : Memory) (a : RegAddr) : Memory :=
  match m with
  | [] => []
  | (k, c) :: rest => if k = a.toNat then rest else (k, c) :: Memory.forget rest a

end Sys2Proof.Machine
end

