-- ==== Sys2Proof/Syntax.lean ====
section
/-! DEFINITION. The instructions: one constructor per row of spec/opcode_table.json. Four are the frames the block
transmits (format FRAME16), nine the host's commands (format CMD20). A command keeps BOTH its 8-bit fields, the
ignored bits included, because Accept latches the whole word into CR (R13, R61, R91). -/

namespace Sys2Proof

inductive Instr where
  /-- WRITE frame (R57, R77): the address operand is 8 bits wide and the frame carries its low six. -/
  | write (address value : Byte)
  /-- READREQ frame (R58, R78). -/
  | readreq (address : Byte)
  /-- NOP frame, the drain frame 0x0000 (R59). -/
  | nop
  /-- DIAGREQ frame, the open parameter DIAG_REQ_FRAME (R59). -/
  | diagreq
  /-- RDREG: `a` is the register address, `d` is ignored (R95). -/
  | rdreg (a d : Byte)
  /-- WRREG: `a` is the register address, `d` the value (R93). -/
  | wrreg (a d : Byte)
  /-- RDDIAG: both fields ignored (R97). -/
  | rddiag (a d : Byte)
  /-- SETCH: `d` is the channel index, bit 0 of `a` is `on` (R110). -/
  | setch (a d : Byte)
  /-- CLRERR: `d` is the channel index, `a` is ignored (R111). -/
  | clrerr (a d : Byte)
  /-- CLRALL: both fields ignored (R112). -/
  | clrall (a d : Byte)
  /-- SLEEP: both fields ignored (R120). -/
  | sleep (a d : Byte)
  /-- ACTIVE: both fields ignored (R121). -/
  | active (a d : Byte)
  /-- INIT: both fields ignored (R122). -/
  | init (a d : Byte)
  deriving DecidableEq, Repr

/-- The host's commands, as against the frames the block transmits. -/
def Instr.isCommand : Instr → Bool
  | .write _ _ => false
  | .readreq _ => false
  | .nop => false
  | .diagreq => false
  | .rdreg _ _ => true
  | .wrreg _ _ => true
  | .rddiag _ _ => true
  | .setch _ _ => true
  | .clrerr _ _ => true
  | .clrall _ _ => true
  | .sleep _ _ => true
  | .active _ _ => true
  | .init _ _ => true

end Sys2Proof
end

