-- ==== Sys2Proof/WellFormed.lean ====
section
/-! DEFINITION. Which instructions are well formed: those whose operands their encoding carries whole. -/

namespace Sys2Proof

/-- An address a frame carries whole: frame bits [13:8] hold six bits, and the encoders drop bits [7:6] of the
operand (R34, R77, R78). -/
def addressFits (address : Byte) : Bool := address &&& 0xC0#8 == 0#8

/-- A frame with an address above 0x3F has the encoding of its alias (R34), so it is not well formed. Every command is
well formed: its fields are carried whole, ignored bits included (R61, R67). -/
def Instr.wellFormed : Instr → Bool
  | .write address _ => addressFits address
  | .readreq address => addressFits address
  | .nop => true
  | .diagreq => true
  | .rdreg _ _ => true
  | .wrreg _ _ => true
  | .rddiag _ _ => true
  | .setch _ _ => true
  | .clrerr _ _ => true
  | .clrall _ _ => true
  | .sleep _ _ => true
  | .active _ _ => true
  | .init _ _ => true

end Sys2Proof
end

