-- ==== Sys2Proof/Decode.lean ====
section
/-! DEFINITION. Decoding, total and rejecting by name, and after it the encoder, written from the layouts of
30_encoding.md R57 to R60. Two decoders, for the two things that are encoded: a command word the host offers (R60,
R67) and a frame the block transmits (R66). -/

namespace Sys2Proof

/-- An encoded instruction: a transmitted frame (FRAME16) or a host command word (CMD20). -/
inductive Encoded where
  | frame (t : Frame)
  | command (w : CmdWord)
  deriving DecidableEq, Repr

/-- Why a word is no instruction. -/
inductive Reject where
  /-- A command word whose op is 0x0 or 0xA to 0xF (R67, R134). -/
  | illegalOp (op : BitVec 4)
  /-- A frame of none of the four shapes the block transmits (R56, R65, R66). -/
  | notAFrame (t : Frame)
  deriving DecidableEq, Repr

/-- Field `op`, bits [19:16] (R60). -/
def cmdOp (w : CmdWord) : BitVec 4 := w.extractLsb' 16 4

/-- Field `A`, bits [15:8] (R60). -/
def cmdA (w : CmdWord) : Byte := w.extractLsb' 8 8

/-- Field `D`, bits [7:0] (R60). -/
def cmdD (w : CmdWord) : Byte := w.extractLsb' 0 8

/-- The op decode of Accept (R60, R67, R91): nine ops are commands, the other seven are refused. -/
def decodeCommand (w : CmdWord) : Except Reject Instr :=
  match (cmdOp w).toNat with
  | 0x1 => .ok (.rdreg (cmdA w) (cmdD w))
  | 0x2 => .ok (.wrreg (cmdA w) (cmdD w))
  | 0x3 => .ok (.rddiag (cmdA w) (cmdD w))
  | 0x4 => .ok (.setch (cmdA w) (cmdD w))
  | 0x5 => .ok (.clrerr (cmdA w) (cmdD w))
  | 0x6 => .ok (.clrall (cmdA w) (cmdD w))
  | 0x7 => .ok (.sleep (cmdA w) (cmdD w))
  | 0x8 => .ok (.active (cmdA w) (cmdD w))
  | 0x9 => .ok (.init (cmdA w) (cmdD w))
  | _ => .error (.illegalOp (cmdOp w))

/-- Address bits of a frame, [13:8] (R57, R58), as the 8-bit operand. -/
def frameAddress (t : Frame) : Byte := (t.extractLsb' 8 6).setWidth 8

/-- The low byte of a frame, [7:0] (R57). -/
def frameByte (t : Frame) : Byte := t.extractLsb' 0 8

/-- Naming a transmitted frame (R66): DIAGREQ before WRITE and READREQ, since DIAG_REQ_FRAME may have the shape of
either. The zero frame stands first: DIAG_REQ_FRAME is never zero (R59), so R66's order gives the same answer
(Laws/Decode.lean, `decodeFrame_order`; log entry 25). -/
def decodeFrame (t : Frame) : Except Reject Instr :=
  if t = 0x0000#16 then .ok .nop
  else if t = Config.diagReqFrame then .ok .diagreq
  else if t &&& 0xC000#16 = 0x8000#16 then .ok (.write (frameAddress t) (frameByte t))
  else if t &&& 0xC0FF#16 = 0x4002#16 then .ok (.readreq (frameAddress t))
  else .error (.notAFrame t)

def decode : Encoded → Except Reject Instr
  | .frame t => decodeFrame t
  | .command w => decodeCommand w

/-- CMD20 put together from its fields: `op || A || D` (R60). -/
def commandWord (op : BitVec 4) (a d : Byte) : CmdWord := op ++ a ++ d

/-- The words of an instruction, from the layouts of R57, R58, R59 and R60. -/
def encode : Instr → Encoded
  | .write address value => .frame (0b10#2 ++ address.extractLsb' 0 6 ++ value)
  | .readreq address => .frame (0b01#2 ++ address.extractLsb' 0 6 ++ 0b000000#6 ++ 0b10#2)
  | .nop => .frame 0x0000#16
  | .diagreq => .frame Config.diagReqFrame
  | .rdreg a d => .command (commandWord 0x1#4 a d)
  | .wrreg a d => .command (commandWord 0x2#4 a d)
  | .rddiag a d => .command (commandWord 0x3#4 a d)
  | .setch a d => .command (commandWord 0x4#4 a d)
  | .clrerr a d => .command (commandWord 0x5#4 a d)
  | .clrall a d => .command (commandWord 0x6#4 a d)
  | .sleep a d => .command (commandWord 0x7#4 a d)
  | .active a d => .command (commandWord 0x8#4 a d)
  | .init a d => .command (commandWord 0x9#4 a d)

/-- The instruction read from bits numbered as spec/opcode_table.json numbers them. A row of at most 16 bits is a
frame, a longer one a command word, whose bits above [19:0] are zero (R55). -/
def decodeTableWord (nbits w : Nat) : Option Instr :=
  if nbits ≤ 16 then
    if w < 2 ^ 16 then (decodeFrame (BitVec.ofNat 16 w)).toOption else none
  else
    if w < 2 ^ 20 then (decodeCommand (BitVec.ofNat 20 w)).toOption else none

end Sys2Proof
end

