-- ==== Sys2Proof/Machine/Operands.lean ====
section
/-! DEFINITION. The address packing codec, the frame encoders, the response decoders and the bit helpers
(40_frame_codec.md R75 to R81), and the register table (10_state.md R20): every way an operand reaches a frame or
leaves one (30_encoding.md R64). All pure. -/

namespace Sys2Proof.Machine

/-- `pack(group, sub) = (group << 2) | sub` (R75). -/
def pack (group : BitVec 4) (sub : BitVec 2) : RegAddr :=
  (group.setWidth 6 <<< 2) ||| sub.setWidth 6

/-- `unpack(a) = (a[5:2], a[1:0])` (R76). -/
def unpack (a : RegAddr) : BitVec 4 × BitVec 2 := (a.extractLsb' 2 4, a.extractLsb' 0 2)

/-- `encW(address, value) = 0x8000 | ((address & 0x3F) << 8) | value` (R77). -/
def encW (address value : Byte) : Frame :=
  0x8000#16 ||| ((address &&& 0x3F#8).setWidth 16 <<< 8) ||| value.setWidth 16

/-- `encR(address) = 0x4000 | ((address & 0x3F) << 8) | 0x0002` (R78). -/
def encR (address : Byte) : Frame :=
  0x4000#16 ||| ((address &&& 0x3F#8).setWidth 16 <<< 8) ||| 0x0002#16

/-- NOP_FRAME (R5, R59). -/
def nopFrame : Frame := 0x0000#16

/-- `dec(rx) = rx[7:0]` (R79). -/
def dec (rx : Frame) : Byte := rx.extractLsb' 0 8

/-- `decDiag(rx) = rx[15:0]` (R80). -/
def decDiag (rx : Frame) : BitVec 16 := rx

/-- `zext_16` of a register byte (R7, R101). -/
def zext16 (b : Byte) : BitVec 16 := b.setWidth 16

/-- `bit(i) = 1 << i` for a channel index in 0..7 (R81). -/
def channelBit (i : BitVec 3) : Byte := 1#8 <<< i.toNat

/-- `setbit(old, i, on)` (R81). -/
def setbit (old : Byte) (i : BitVec 3) (on : Bool) : Byte :=
  if on then old ||| channelBit i else old &&& ~~~channelBit i

/-- The bounds test `CR.D > 7`, unsigned on the whole field (R113). -/
def outOfRange (d : Byte) : Bool := (7#8).ult d

/-- `CR.D[2:0]`, the index of a channel in range (R110, R111). -/
def channelIndex (d : Byte) : BitVec 3 := d.extractLsb' 0 3

/-- `CR.A[0]`, SETCH's `on` (R61, R110). -/
def onBit (a : Byte) : Bool := a.getLsbD 0

/-- The device's named registers (R20). -/
inductive RegName where
  | out | mapin0 | mapin1 | inst | diagIol | diagOsm | hwcr | hwcrOcl
  deriving DecidableEq, Repr

/-- The register table (R5, R20). MAPIN1's address is open (R24). -/
def RegName.addr : RegName → RegAddr
  | .out => 0x00#6
  | .mapin0 => 0x04#6
  | .mapin1 => Config.addrMapin1
  | .inst => 0x06#6
  | .diagIol => 0x08#6
  | .diagOsm => 0x09#6
  | .hwcr => 0x0C#6
  | .hwcrOcl => 0x0D#6

/-- A named register as the 8-bit address operand of the encoders (R77, R78). -/
def RegName.operand (r : RegName) : Byte := r.addr.setWidth 8

end Sys2Proof.Machine
end

