-- ==== Sys2Proof/Machine/Device.lean ====
section
/-! DEFINITION. The device assumed at the far end of the bus, where one is assumed at all (20_memory.md R37): it obeys
the response-lag law R38, answers as R39 says and takes frames as R40 says. Whatever those rules leave open is a free
value or unknown (log entries 5, 17 and 23). -/

namespace Sys2Proof.Machine

/-- What the device shifts out: fixed by the previous exchange (R26, R38). Of a register's answer only the low byte is
fixed (R39, U2); of every other answer nothing is, nor of a sleeping device's (U18). -/
def Device.shiftOut (free : Frame) (d : Device) : Frame :=
  if d.asleep then free
  else match d.owed with
    | some b => free.extractLsb' 8 8 ++ b
    | none => free

/-- The latches of HWCR_OCL (R23): its content, which is any value where it is not known (U5, U18). -/
def Device.latches (d : Device) : Byte :=
  match d.regs.read RegName.hwcrOcl.addr with
  | some b => b
  | none => Config.freeLatches d.draws

/-- HWCR_OCL holds `b` from now on. -/
def Device.setLatches (b : Byte) (d : Device) : Device :=
  { d with draws := d.draws + 1, regs := d.regs.write RegName.hwcrOcl.addr b }

/-- The device itself changes register `a`. Of HWCR_OCL it can only set latches, which stay set until they are written
(R162, U17); any other register takes the value (R45). -/
def Device.changeItself (a : RegAddr) (b : Byte) (d : Device) : Device :=
  if a = RegName.hwcrOcl.addr then d.setLatches (d.latches ||| b) else { d with regs := d.regs.write a b }

/-- The device's own change before an exchange (R45, U17); there are no addresses from 64 on (R30). -/
def Device.ownChange (d : Device) : Device :=
  match d.changes with
  | some (k, b) :: rest =>
    if k < 64 then { d with changes := rest }.changeItself (BitVec.ofNat 6 k) b else { d with changes := rest }
  | none :: rest => { d with changes := rest }
  | [] => d

/-- A write frame taken by the device: HWCR_OCL clears the latches written 1, whatever it held (R23), an ordinary
register stores (R40), and of any other register the content is no longer known (U7). -/
def Device.takeWrite (a : RegAddr) (v : Byte) (d : Device) : Device :=
  if a = RegName.hwcrOcl.addr then { d.setLatches (d.latches &&& ~~~v) with owed := none }
  else if a ∈ d.ordinary then { d with owed := none, regs := d.regs.write a v }
  else { d with owed := none, regs := d.regs.forget a }

/-- A frame taken by the device in an exchange, after its own change. By its shape (R57, R58): a write frame writes
(R40), a read request makes the device owe the register's content (R39) and changes nothing (R40), and after any other
frame its answer is open. A sleeping device may do anything with a write (U18). R39 and R40 hold of a WRITE or READREQ
frame also where it happens to be DIAG_REQ_FRAME: DEDUCED, log entry 6. -/
def Device.take (tx : Frame) (d0 : Device) : Device :=
  let d := d0.ownChange
  let a : RegAddr := tx.extractLsb' 8 6
  if tx &&& 0xC000#16 = 0x8000#16 then
    if d.asleep then { d with owed := none, regs := d.regs.forget a } else d.takeWrite a (frameByte tx)
  else if tx &&& 0xC0FF#16 = 0x4002#16 then { d with owed := d.regs.read a }
  else { d with owed := none }

/-- The device sees the mode-control line go from `old` to `new`. After the line has been low and goes high again every
register may hold any value (U18); until it first falls nothing changes. -/
def Device.lineMoves (old new : Level) (d : Device) : Device :=
  if old = 1 ∧ new = 0 then { d with asleep := true }
  else if old = 0 ∧ new = 1 ∧ d.asleep then { d with asleep := false, regs := [], owed := none }
  else d

end Sys2Proof.Machine
end

