-- ==== Sys2Proof/Machine/Flags.lean ====
section
/-! DEFINITION. The block has no condition codes (10_state.md R17). Here stand the flag-like things it has: the
derived outputs, the codes of PHASE and PEND, the response status, and the device mode a host infers. -/

namespace Sys2Proof.Machine

/-- PHASE as its bit: IDLE = 0, RUN = 1 (R10). -/
def Phase.code : Phase → BitVec 1
  | .idle => 0
  | .run => 1

/-- PEND as its 3-bit code (R15). -/
def Pend.code : Pend → BitVec 3
  | .none => 0
  | .wrStatus => 1
  | .rdData => 2
  | .rdTrail => 3
  | .diagWord => 4

/-- `busy = (PHASE = RUN)`, also the request for the bus (R17, R19, R142). -/
def State.busy (s : State) : Bool := s.phase == .run

/-- `cmd_ready = (PHASE = IDLE)` (R17). -/
def State.cmdReady (s : State) : Bool := s.phase == .idle

/-- `mode_out`, the value of MODE (R19). -/
def State.modeOut (s : State) : Level := s.mode

/-- The status field of a response (R62, R131). Status 3 is never produced. -/
inductive Status where
  | ok
  | transportFault
  | illegalCmd
  deriving DecidableEq, Repr

def Status.code : Status → BitVec 2
  | .ok => 0
  | .transportFault => 1
  | .illegalCmd => 2

/-- DeviceMode, no state of the block (R123). -/
inductive DeviceMode where
  | sleep
  | idleLimpHome
  | active
  deriving DecidableEq, Repr

/-- How a host infers the device mode from the pin and the ACT bit of HWCR (R123, R147). -/
def inferMode (mode : Level) (act : Bool) : DeviceMode :=
  if mode = 0 then .sleep else if act then .active else .idleLimpHome

/-- `act` of an HWCR content: the bit HWCR_ACT_MASK names (R22). -/
def actOf (hwcr : Byte) : Bool := hwcr &&& Config.hwcrActMask != 0

end Sys2Proof.Machine
end

