-- ==== Sys2Proof/Machine/Ops.lean ====
section
/-! DEFINITION. The named operations over State that every meaning is made of: the exchange, the captures, the
response, Accept, Complete, the two exceptions and reset. -/

namespace Sys2Proof.Machine

/-- One more entry in the record of what the block did. -/
def State.log (e : Event) (s : State) : State := { s with trace := s.trace ++ [e] }

/-- The frame the far end shifts out now when no answer stands in `script`: any sixteen bits (R37), or the assumed
device's (R38); log entry 4. -/
def State.farFrame (s : State) : Frame :=
  match s.device with
  | none => Config.freeFrame s.draws
  | some d => d.shiftOut (Config.freeFrame s.draws)

/-- What the adapter does with the exchange the block asks for now (R36, R37). -/
def State.answer (s : State) : Answer :=
  match s.script with
  | a :: _ => a
  | [] => .rx s.farFrame

/-- The exchange of `tx` ended; `delivered` says whether the device took the frame. -/
def State.exchanged (tx : Frame) (delivered : Bool) (s : State) : State :=
  { s with
    script := s.script.tail
    draws := s.draws + 1
    device := if delivered then s.device.map (Device.take tx) else s.device
    trace := s.trace ++ [.sent tx] }

/-- An entry of the adapter's answers is used up and nothing in the block changes: the exchange has not returned, or a
reset cut it (R36, R148, R151). -/
def State.waitTransport (s : State) : State := { s with script := s.script.tail }

/-- The same for `wait_done` (R143, R151). -/
def State.waitSettle (s : State) : State := { s with settle := s.settle.tail }

/-- What an exchange keeps of its received frame, chosen by the micro-program (R63, R90). -/
inductive Capture where
  | drop
  | data8
  | data16
  deriving DecidableEq, Repr

/-- The capture of an exchange (R14, R90). -/
def State.capture (cap : Capture) (rx : Frame) (s : State) : State :=
  match cap with
  | .drop => s
  | .data8 => { s with dr := zext16 (dec rx) }
  | .data16 => { s with dr := decDiag rx }

/-- The end of an exchange that returned: PEND takes its tag, UPC counts (R90). -/
def State.slotTo (tag : Pend) (s : State) : State := { s with pend := tag, upc := s.upc + 1 }

/-- The end of a `PIN` or `WAIT`: UPC counts (R90). -/
def State.countUpc (s : State) : State := { s with upc := s.upc + 1 }

/-- MODE takes `level`, and the device sees the line (R16). -/
def State.driveLine (level : Level) (s : State) : State :=
  { s with mode := level, device := s.device.map (Device.lineMoves s.mode level) }

/-- Respond with a status other than 1: `finfo` is a free value (R62, U12). -/
def State.respond (status : Status) (data : BitVec 16) (s : State) : State :=
  { s with
    draws := s.draws + 1
    trace := s.trace ++ [.responded ⟨status.code, data, Config.freeFinfo s.draws⟩] }

/-- Respond with status 1: `finfo` is the adapter's information, unmodified (R62, R133). -/
def State.respondFault (info : FaultInfo) (s : State) : State :=
  { s with trace := s.trace ++ [.responded ⟨Status.transportFault.code, 0x0000#16, info⟩] }

/-- Accept of the legal word `w`: `CR <- w; UPC <- 0; PHASE <- RUN` (R91). -/
def State.accept (w : CmdWord) (s : State) : State :=
  { s with cr := w, upc := 0, phase := .run, trace := s.trace ++ [.accepted w] }

/-- `PHASE <- IDLE; UPC <- 0`, common to Complete and abort (R91, R133). -/
def State.toIdle (s : State) : State := { s with phase := .idle, upc := 0 }

/-- Complete (R91). -/
def State.complete (data : BitVec 16) (s : State) : State := s.toIdle.respond .ok data

/-- The block's two exceptions (R130). -/
inductive Exn where
  | transportFault (info : FaultInfo)
  | illegalCommand
  deriving DecidableEq, Repr

/-- Taking an exception (R133, R134). There is no handler and nothing is saved (R138): control goes back to the host in
the form of the response. A TransportFault empties the slot and returns to IDLE from any UPC; an IllegalCommand
changes no state element. Neither has a return instruction (R139). -/
def State.raise (e : Exn) (s : State) : State :=
  match e with
  | .transportFault info => { s.toIdle with pend := .none }.respondFault info
  | .illegalCommand => s.respond .illegalCmd 0x0000#16

/-- Reset of the block (R27, R150, R151): CR and DR take free values (log entry 10), the line goes low, no response is
made. -/
def State.applyReset (s : State) : State :=
  { s.driveLine 0 with
    phase := .idle
    upc := 0
    pend := .none
    cr := Config.freeCr s.draws
    dr := Config.freeDr s.draws
    draws := s.draws + 1
    trace := s.trace ++ [.resetDone s.busy] }

/-- `XFER(tx, cap, tag)` (R90): one exchange. Where it faults, none of its own writes happen (R133). -/
def xfer (tx : Frame) (cap : Capture) (tag : Pend) (s : State) : State :=
  match s.answer with
  | .rx w => ((s.exchanged tx true).capture cap w).slotTo tag
  | .fault info delivered => (s.exchanged tx delivered).raise (.transportFault info)
  | .pending => s.waitTransport
  | .never => s

/-- `PIN(level)` (R90). -/
def pinOp (level : Level) (s : State) : State := ((s.driveLine level).log (.pin level)).countUpc

/-- `WAIT` (R90, R143): it ends when `wait_done` is high and has no other effect. -/
def waitOp (s : State) : State :=
  match s.settle with
  | .low :: _ => s.waitSettle
  | .never :: _ => s
  | .high :: _ => (s.waitSettle.log .settled).countUpc
  | [] => (s.waitSettle.log .settled).countUpc

end Sys2Proof.Machine
end

