-- ==== Sys2Proof/Machine/Sequencer.lean ====
section
/-! DEFINITION. The sequencer (41_register_access.md R90, R91): micro-operations, the three primitive sequences every
micro-program is a concatenation of, and the step a command takes. -/

namespace Sys2Proof.Machine

/-- The three micro-operations (R90). -/
inductive MicroOp where
  | xfer (tx : Frame) (cap : Capture) (tag : Pend)
  | pin (level : Level)
  | wait
  deriving DecidableEq, Repr

/-- `WriteRegSeq(a, v)` (R92). -/
def writeRegSeq (a v : Byte) : List MicroOp :=
  [.xfer (encW a v) .drop .wrStatus, .xfer nopFrame .drop .none]

/-- `ReadRegSeq(a)` (R94). -/
def readRegSeq (a : Byte) : List MicroOp :=
  [.xfer (encR a) .drop .rdData, .xfer nopFrame .data8 .rdTrail, .xfer nopFrame .drop .none]

/-- `ReadDiagSeq` (R96). -/
def readDiagSeq : List MicroOp :=
  [.xfer Config.diagReqFrame .drop .diagWord, .xfer nopFrame .data16 .none]

/-- One micro-operation (R90). -/
def perform (op : MicroOp) (s : State) : State :=
  match op with
  | .xfer tx cap tag => xfer tx cap tag s
  | .pin level => pinOp level s
  | .wait => waitOp s

/-- The step the command in word `w` takes (R91), `prog` its micro-program and `result` its response data, both as CR
and the present DR give them: Accept in IDLE; in RUN the micro-operation at UPC, or Complete after the last (log entry
13). -/
def stepCommand (w : CmdWord) (prog : List MicroOp) (result : BitVec 16) (s : State) :
    Host.Outcome State Fault Refusal :=
  match s.phase with
  | .idle => .next (s.accept w)
  | .run =>
    match prog[s.upc.toNat]? with
    | some op => .next (perform op s)
    | none => if s.upc.toNat = prog.length then .next (s.complete result) else .fault .upcPastEnd

end Sys2Proof.Machine
end

