-- ==== Sys2Proof/Machine/ChannelOps.lean ====
section
/-! DEFINITION. The channel and error-latch commands (42_channel_ops.md). -/

namespace Sys2Proof.Machine

/-- SETCH's micro-program (R110): none at all for an index above 7 (R113). The value written is computed from the DR of
the moment its exchange is issued. -/
def setchProg (a d : Byte) (dr : BitVec 16) : List MicroOp :=
  if outOfRange d then []
  else readRegSeq RegName.out.operand ++
    writeRegSeq RegName.out.operand (setbit (dec dr) (channelIndex d) (onBit a))

/-- CLRERR's micro-program (R111): none at all for an index above 7 (R113). -/
def clrerrProg (d : Byte) : List MicroOp :=
  if outOfRange d then [] else writeRegSeq RegName.hwcrOcl.operand (channelBit (channelIndex d))

/-- CLRALL's micro-program (R112). -/
def clrallProg : List MicroOp := writeRegSeq RegName.hwcrOcl.operand 0xFF#8

/-- SETCH (R110). -/
def execSetch (a d : Byte) (s : State) : Host.Outcome State Fault Refusal :=
  stepCommand (commandWord 0x4#4 a d) (setchProg a d s.dr) 0x0000#16 s

/-- CLRERR (R111). -/
def execClrerr (a d : Byte) (s : State) : Host.Outcome State Fault Refusal :=
  stepCommand (commandWord 0x5#4 a d) (clrerrProg d) 0x0000#16 s

/-- CLRALL (R112). -/
def execClrall (a d : Byte) (s : State) : Host.Outcome State Fault Refusal :=
  stepCommand (commandWord 0x6#4 a d) clrallProg 0x0000#16 s

end Sys2Proof.Machine
end

