-- ==== Sys2Proof/Machine/Lifecycle.lean ====
section
/-! DEFINITION. The device lifecycle commands (43_lifecycle.md). -/

namespace Sys2Proof.Machine

/-- SLEEP's micro-program (R120): outputs off and drained before the line falls. -/
def sleepProg : List MicroOp := writeRegSeq RegName.out.operand 0x00#8 ++ [.pin 0, .wait]

/-- ACTIVE's micro-program (R121): the line high, settled, then HWCR read, ACT set, written back. -/
def activeProg (dr : BitVec 16) : List MicroOp :=
  [.pin 1, .wait] ++ readRegSeq RegName.hwcr.operand ++
    writeRegSeq RegName.hwcr.operand (dec dr ||| Config.hwcrActMask)

/-- INIT's micro-program (R122): six register writes in this order. -/
def initProg : List MicroOp :=
  writeRegSeq RegName.hwcrOcl.operand 0xFF#8 ++
  writeRegSeq RegName.mapin0.operand Config.mapin0Default ++
  writeRegSeq RegName.mapin1.operand Config.mapin1Default ++
  writeRegSeq RegName.diagIol.operand Config.diagIolDefault ++
  writeRegSeq RegName.hwcr.operand Config.hwcrActiveBaseline ++
  writeRegSeq RegName.out.operand 0x00#8

/-- SLEEP (R120). -/
def execSleep (a d : Byte) (s : State) : Host.Outcome State Fault Refusal :=
  stepCommand (commandWord 0x7#4 a d) sleepProg 0x0000#16 s

/-- ACTIVE (R121). -/
def execActive (a d : Byte) (s : State) : Host.Outcome State Fault Refusal :=
  stepCommand (commandWord 0x8#4 a d) (activeProg s.dr) 0x0000#16 s

/-- INIT (R122). -/
def execInit (a d : Byte) (s : State) : Host.Outcome State Fault Refusal :=
  stepCommand (commandWord 0x9#4 a d) initProg 0x0000#16 s

end Sys2Proof.Machine
end

