-- ==== Sys2Proof/Machine/RegAccess.lean ====
section
/-! DEFINITION. The register access commands (41_register_access.md). -/

namespace Sys2Proof.Machine

/-- RDREG's micro-program (R95). -/
def rdregProg (a : Byte) : List MicroOp := readRegSeq a

/-- WRREG's micro-program (R93). -/
def wrregProg (a d : Byte) : List MicroOp := writeRegSeq a d

/-- RDDIAG's micro-program (R97). -/
def rddiagProg : List MicroOp := readDiagSeq

/-- RDREG (R95): the response carries DR. -/
def execRdreg (a d : Byte) (s : State) : Host.Outcome State Fault Refusal :=
  stepCommand (commandWord 0x1#4 a d) (rdregProg a) s.dr s

/-- WRREG (R93). -/
def execWrreg (a d : Byte) (s : State) : Host.Outcome State Fault Refusal :=
  stepCommand (commandWord 0x2#4 a d) (wrregProg a d) 0x0000#16 s

/-- RDDIAG (R97): the response carries DR. -/
def execRddiag (a d : Byte) (s : State) : Host.Outcome State Fault Refusal :=
  stepCommand (commandWord 0x3#4 a d) rddiagProg s.dr s

end Sys2Proof.Machine
end

