-- ==== Sys2Proof/Machine/FrameCodec.lean ====
section
/-! DEFINITION. The four frames the block transmits (30_encoding.md R56), each the exchange that sends it. No command
lets the host send a frame (R102): a frame goes out where the running micro-program is at an exchange of it, and there
its capture and its tag are the micro-program's (R63; log entry 12). -/

namespace Sys2Proof.Machine

/-- `prog(CR, DR)` (R90, R99), of the command `i`. -/
def progOf (i : Instr) (dr : BitVec 16) : List MicroOp :=
  match i with
  | .write _ _ => []
  | .readreq _ => []
  | .nop => []
  | .diagreq => []
  | .rdreg a _ => rdregProg a
  | .wrreg a d => wrregProg a d
  | .rddiag _ _ => rddiagProg
  | .setch a d => setchProg a d dr
  | .clrerr _ d => clrerrProg d
  | .clrall _ _ => clrallProg
  | .sleep _ _ => sleepProg
  | .active _ _ => activeProg dr
  | .init _ _ => initProg

/-- The micro-operation at UPC of the command CR holds, while PHASE = RUN (R12). -/
def State.microOp? (s : State) : Option MicroOp :=
  match s.phase with
  | .idle => none
  | .run =>
    match decodeCommand s.cr with
    | .ok i => (progOf i s.dr)[s.upc.toNat]?
    | .error _ => none

/-- The exchange of the frame `f`, where it is due. -/
def sendFrame (f : Frame) (s : State) : Host.Outcome State Fault Refusal :=
  match s.microOp? with
  | some (.xfer tx cap tag) => if tx = f then .next (xfer tx cap tag s) else .refused .frameNotDue
  | _ => .refused .frameNotDue

/-- WRITE frame (R57, R77). -/
def execWrite (address value : Byte) (s : State) : Host.Outcome State Fault Refusal :=
  sendFrame (encW address value) s

/-- READREQ frame (R58, R78). -/
def execReadreq (address : Byte) (s : State) : Host.Outcome State Fault Refusal :=
  sendFrame (encR address) s

/-- NOP frame (R47, R59). -/
def execNop (s : State) : Host.Outcome State Fault Refusal := sendFrame nopFrame s

/-- DIAGREQ frame (R59, R96). -/
def execDiagreq (s : State) : Host.Outcome State Fault Refusal := sendFrame Config.diagReqFrame s

end Sys2Proof.Machine
end

