-- ==== Sys2Proof/Machine/Dispatch.lean ====
section
/-! DEFINITION. exec: one arm per instruction. -/

namespace Sys2Proof.Machine

def exec (i : Instr) (s : State) : Host.Outcome State Fault Refusal :=
  match i with
  | .write address value => Sys2Proof.Machine.execWrite address value s
  | .readreq address => Sys2Proof.Machine.execReadreq address s
  | .nop => Sys2Proof.Machine.execNop s
  | .diagreq => Sys2Proof.Machine.execDiagreq s
  | .rdreg a d => Sys2Proof.Machine.execRdreg a d s
  | .wrreg a d => Sys2Proof.Machine.execWrreg a d s
  | .rddiag a d => Sys2Proof.Machine.execRddiag a d s
  | .setch a d => Sys2Proof.Machine.execSetch a d s
  | .clrerr a d => Sys2Proof.Machine.execClrerr a d s
  | .clrall a d => Sys2Proof.Machine.execClrall a d s
  | .sleep a d => Sys2Proof.Machine.execSleep a d s
  | .active a d => Sys2Proof.Machine.execActive a d s
  | .init a d => Sys2Proof.Machine.execInit a d s

end Sys2Proof.Machine
end

