-- ==== Sys2Proof/Machine/Fetch.lean ====
section
/-! DEFINITION. Where the next instruction comes from. The block fetches from no memory (20_memory.md R46): in IDLE the
command is the word the host offers, in RUN it is the one CR holds. The input `rst` comes before both (R137, R151; log entries 11 and 20). -/

namespace Sys2Proof.Machine

/-- What the block has to do in this step. -/
inductive Fetched where
  /-- `rst` is high (R150). -/
  | reset (s : State)
  /-- The instruction to run and the state it runs in. -/
  | instr (i : Instr) (s : State)
  /-- The word offered is no legal command (R134). -/
  | illegal (s : State)
  /-- IDLE and no word is offered: the block waits (R11, R150). -/
  | nothing (s : State)
  /-- RUN and CR holds no legal command: no run reaches this (R11). -/
  | corrupt
  deriving DecidableEq, Repr

/-- What `rst` cuts short. An exchange in flight ends, and the device may have taken its frame (R151, U19); a wait ends;
one that would never end does so too (R148). -/
def State.cutShort (delivered : Bool) (s : State) : State :=
  match s.microOp? with
  | some (.xfer tx _ _) => if delivered then s.exchanged tx true else s.waitTransport
  | some .wait => s.waitSettle
  | some (.pin _) => s
  | none => s

/-- Fetch with `rst` low: Accept takes the first word offered, and while a command runs the port is not looked at
(R46, R91). -/
def State.fetchCommand (s : State) : Fetched :=
  match s.phase with
  | .run =>
    match decodeCommand s.cr with
    | .ok i => .instr i s
    | .error _ => .corrupt
  | .idle =>
    match s.offers with
    | [] => .nothing s
    | w :: rest =>
      match decodeCommand w with
      | .ok i => .instr i { s with offers := rest }
      | .error _ => .illegal { s with offers := rest }

/-- One step's fetch: the level of `rst` first. -/
def State.fetch (s : State) : Fetched :=
  match s.rst with
  | .high delivered :: rest => .reset ({ s with rst := rest }.cutShort delivered)
  | .low :: rest => { s with rst := rest }.fetchCommand
  | [] => s.fetchCommand

/-- A state whose next step sends the frame `t`: PHASE, UPC, PEND and CR as they stand where a command of the block
sends it (R92, R94, R96). -/
def State.placeFrame (s : State) (t : Frame) : State :=
  if t = 0x0000#16 then
    { s with rst := [], phase := .run, upc := 1, pend := .wrStatus, cr := commandWord 0x2#4 0x00#8 0x00#8 }
  else if t &&& 0xC000#16 = 0x8000#16 then
    { s with rst := [], phase := .run, upc := 0, pend := .none,
             cr := commandWord 0x2#4 (frameAddress t) (frameByte t) }
  else if t &&& 0xC0FF#16 = 0x4002#16 then
    { s with rst := [], phase := .run, upc := 0, pend := .none, cr := commandWord 0x1#4 (frameAddress t) 0x00#8 }
  else
    { s with rst := [], phase := .run, upc := 0, pend := .none, cr := commandWord 0x3#4 0x00#8 0x00#8 }

/-- A state whose next step accepts the word `w`: IDLE, and `w` the first word the host offers (R91). -/
def State.placeCommand (s : State) (w : CmdWord) : State :=
  { s with rst := [], phase := .idle, upc := 0, pend := .none, offers := w :: s.offers }

end Sys2Proof.Machine
end

