-- ==== Sys2Proof/Machine/Step.lean ====
section
/-! DEFINITION. One step of the machine (41_register_access.md R91): Accept, one micro-operation, or Complete; a refusal
(R134); reset (R150); or waiting in IDLE for a word. -/

namespace Sys2Proof.Machine

def step (s : State) : Host.Outcome State Fault Refusal :=
  match s.fetch with
  | .reset s' => .next s'.applyReset
  | .instr i s' => exec i s'
  | .illegal s' => .next (s'.raise .illegalCommand)
  | .nothing s' => .next s'
  | .corrupt => .fault .noCommandInCr

/-- `s` with the instruction whose bits are `w` placed where the next step fetches: a frame of at most 16 bits where a
micro-program sends it, a command word at the host's port (log entry 8). -/
def State.withFetchWord (s : State) (nbits w : Nat) : State :=
  if nbits ≤ 16 then s.placeFrame (BitVec.ofNat 16 w) else s.placeCommand (BitVec.ofNat 20 w)

end Sys2Proof.Machine
end

