-- ==== Sys2Proof/Machine/HostApi.lean ====
section
/-! DEFINITION. The pseudo-instructions: the names of the host API and the command each stands for (30_encoding.md
R69). Ignored fields are assembled as zero (R68). -/

namespace Sys2Proof.Machine

inductive ApiCall where
  | beginInit
  | enterSleep
  | enterActive
  | readOutputs
  | writeOutputs (mask : Byte)
  | setChannel (index : Byte) (on : Bool)
  | toggleOutput (n : Byte) (on : Bool)
  | clearAllErrors
  | clearError (index : Byte)
  | readStandardDiagnosis
  | readOutputStatusMonitor
  | writeDiagnosticCurrent (mask : Byte)
  | readDiagnosticCurrent
  | getOverloadStatus (index : Byte)
  | getOpenLoadStatus (index : Byte)
  deriving DecidableEq, Repr

/-- SETCH's field A for `on` or `off`. -/
def onField (on : Bool) : Byte := if on then 0x01#8 else 0x00#8

/-- The expansion of R69. toggleOutput counts channels from 1 and sets, it does not toggle (90_conflicts.md C3, C9):
n = 0 gives index 255. The last two names have none. -/
def ApiCall.expand : ApiCall → Option Instr
  | .beginInit => some (.init 0 0)
  | .enterSleep => some (.sleep 0 0)
  | .enterActive => some (.active 0 0)
  | .readOutputs => some (.rdreg RegName.out.operand 0)
  | .writeOutputs mask => some (.wrreg RegName.out.operand mask)
  | .setChannel index on => some (.setch (onField on) index)
  | .toggleOutput n on => some (.setch (onField on) (n - 1))
  | .clearAllErrors => some (.clrall 0 0)
  | .clearError index => some (.clrerr 0 index)
  | .readStandardDiagnosis => some (.rddiag 0 0)
  | .readOutputStatusMonitor => some (.rdreg RegName.diagOsm.operand 0)
  | .writeDiagnosticCurrent mask => some (.wrreg RegName.diagIol.operand mask)
  | .readDiagnosticCurrent => some (.rdreg RegName.diagIol.operand 0)
  | .getOverloadStatus _ => none
  | .getOpenLoadStatus _ => none

end Sys2Proof.Machine
end

