-- ==== Sys2Proof/Safety.lean ====
section
/-! DEFINITION. What counts as a safe run: the invariant of the block (10_state.md R11, R12, R18), the accounting of
responses (60_exceptions.md R141), and the words the statements about runs use. -/

namespace Sys2Proof.Machine

/-- PEND after a run of micro-operations that starts drained: the tag of the last exchange (R98). -/
def pendAfter (ops : List MicroOp) : Pend :=
  ops.foldl (fun p op => match op with
    | .xfer _ _ tag => tag
    | .pin _ => p
    | .wait => p) .none

/-- The pipeline discipline (R18). -/
def State.Drained (s : State) : Prop := s.phase = .idle → s.pend = .none ∧ s.upc = 0

/-- While PHASE = RUN, CR holds a legal command, UPC is an index into its micro-program or its end (R11, R12), and PEND
is the tag of the exchange before UPC (R98). -/
def State.OnTrack (s : State) : Prop :=
  s.phase = .run → ∃ i, decodeCommand s.cr = .ok i ∧ s.upc.toNat ≤ (progOf i s.dr).length ∧
    s.pend = pendAfter ((progOf i s.dr).take s.upc.toNat)

/-- The assumed device's register space keeps its canonical form. -/
def State.MemoryCanonical (s : State) : Prop := ∀ d, s.device = some d → Memory.wf d.regs

/-- The invariant every step keeps. -/
def State.Inv (s : State) : Prop := s.Drained ∧ s.OnTrack ∧ s.MemoryCanonical

/-- The input `rst` is low in the coming step (R150). -/
def State.RstLow (s : State) : Prop := ∀ delivered, s.rst.head? ≠ some (.high delivered)

/-- A `WAIT` performed now ends: `wait_done` is high (R143). -/
def State.WaitOver (s : State) : Prop := s.settle = [] ∨ s.settle.head? = some .high

/-- At the micro-operation at UPC the environment never answers: an exchange that never returns, or a wait whose
`wait_done` never rises (R148). -/
def State.Hangs (s : State) : Prop :=
  (∃ tx cap tag, s.microOp? = some (.xfer tx cap tag) ∧ s.answer = .never) ∨
  (s.microOp? = some .wait ∧ s.settle.head? = some .never)

/-- The fairness premise: every exchange and every wait returns (R148, U9). -/
def State.Fair (s : State) : Prop := .never ∉ s.script ∧ .never ∉ s.settle

/-- An entry that begins a command. -/
def Event.begins : Event → Bool
  | .accepted _ => true
  | .sent _ => false
  | .pin _ => false
  | .settled => false
  | .responded _ => false
  | .resetDone _ => false

/-- An entry that ends a command: its response, or a reset that abandons it. A refusal (status 2) ends none. -/
def Event.finishes : Event → Bool
  | .accepted _ => false
  | .sent _ => false
  | .pin _ => false
  | .settled => false
  | .responded r => r.status != Status.illegalCmd.code
  | .resetDone abandoned => abandoned

/-- One response per accepted word (R141): every command accepted has ended, but for the one running. -/
def State.Accounted (s : State) : Prop :=
  s.trace.countP Event.begins = s.trace.countP Event.finishes + (if s.busy then 1 else 0)

/-- The meaning of `i` run `n` times on end: the steps of one command from Accept on, `rst` low. -/
def execRepeat (i : Instr) : Nat → State → Host.Outcome State Fault Refusal
  | 0, s => .next s
  | n + 1, s =>
    match exec i s with
    | .next s' => execRepeat i n s'
    | .fault r => .fault r
    | .refused r => .refused r

/-- The device after it took these frames, in order. -/
def Device.takeAll (frames : List Frame) (d : Device) : Device := frames.foldl (fun d tx => d.take tx) d

/-- How many exchanges, pin moves and waits a micro-program has (the columns of R99). -/
def opCounts (ops : List MicroOp) : Nat × Nat × Nat :=
  (ops.countP (fun | .xfer _ _ _ => true | .pin _ => false | .wait => false),
   ops.countP (fun | .xfer _ _ _ => false | .pin _ => true | .wait => false),
   ops.countP (fun | .xfer _ _ _ => false | .pin _ => false | .wait => true))

/-- The device registers a command's write frames go to (R92, R110 to R112, R120 to R122). -/
def writesTo : Instr → List RegAddr
  | .write address _ => [address.setWidth 6]
  | .readreq _ => []
  | .nop => []
  | .diagreq => if Config.diagReqFrame &&& 0xC000#16 = 0x8000#16 then [Config.diagReqFrame.extractLsb' 8 6] else []
  | .rdreg _ _ => []
  | .wrreg a _ => [a.setWidth 6]
  | .rddiag _ _ =>
    if Config.diagReqFrame &&& 0xC000#16 = 0x8000#16 then [Config.diagReqFrame.extractLsb' 8 6] else []
  | .setch _ d => if outOfRange d then [] else [RegName.out.addr]
  | .clrerr _ d => if outOfRange d then [] else [RegName.hwcrOcl.addr]
  | .clrall _ _ => [RegName.hwcrOcl.addr]
  | .sleep _ _ => [RegName.out.addr]
  | .active _ _ => [RegName.hwcr.addr]
  | .init _ _ => [RegName.hwcrOcl.addr, RegName.mapin0.addr, RegName.mapin1.addr, RegName.diagIol.addr,
      RegName.hwcr.addr, RegName.out.addr]

/-- The far end is a device alone, awake, that makes no change of its own: the premises under which R49 and R114 hold. -/
def State.FarEndIs (s : State) (d : Device) : Prop :=
  s.script = [] ∧ s.device = some d ∧ d.asleep = false ∧ d.changes = []

end Sys2Proof.Machine
end

