-- ==== Sys2Proof/Certificates/Slice0/Obligations.lean ====
section
/-! DEFINITION. The statements for the provers. Each says which rule of spec/ it formalises. -/

open Sys2Proof Sys2Proof.Machine

/-! ### The codec (40_frame_codec.md) -/

/-- R75, R76: `pack` puts group in bits [5:2] and sub in bits [1:0], and `unpack` is its inverse on both sides. -/
def Obligations.PackAndUnpackAreInverse : Prop :=
  (∀ (g : BitVec 4) (s : BitVec 2), pack g s = g ++ s ∧ pack g s = (g.setWidth 6 <<< 2) ||| s.setWidth 6 ∧
    unpack (pack g s) = (g, s)) ∧
  ∀ a : RegAddr, unpack a = (a.extractLsb' 2 4, a.extractLsb' 0 2) ∧ pack (unpack a).1 (unpack a).2 = a

/-- R77: a write frame is `10`, the low six address bits, the value; no other bit of the operands is in it, and every
frame of type `10` is one. -/
def Obligations.WriteFrameBits : Prop :=
  (∀ address value : Byte,
    encW address value = 0b10#2 ++ address.extractLsb' 0 6 ++ value ∧
    encW address value = 0x8000#16 ||| ((address &&& 0x3F#8).setWidth 16 <<< 8) ||| value.setWidth 16 ∧
    encode (.write address value) = .frame (encW address value) ∧
    (∀ address' value' : Byte, encW address value = encW address' value' ↔
      address &&& 0x3F#8 = address' &&& 0x3F#8 ∧ value = value')) ∧
  (∀ t : Frame, t.extractLsb' 14 2 = 0b10#2 → ∃ a v : Byte, a &&& 0x3F#8 = a ∧ encW a v = t) ∧
  encW 0x00#8 0x00#8 = 0x8000#16 ∧ encW 0x3F#8 0xFF#8 = 0xBFFF#16 ∧ encW 0x0D#8 0xFF#8 = 0x8DFF#16

/-- R78: a read-request frame is `01`, the low six address bits, six zeros and the trailer `10`. -/
def Obligations.ReadRequestFrameBits : Prop :=
  (∀ address : Byte,
    encR address = 0b01#2 ++ address.extractLsb' 0 6 ++ 0b000000#6 ++ 0b10#2 ∧
    encR address = 0x4000#16 ||| ((address &&& 0x3F#8).setWidth 16 <<< 8) ||| 0x0002#16 ∧
    encode (.readreq address) = .frame (encR address) ∧
    encR address = encR (address &&& 0x3F#8) ∧
    (encR address).extractLsb' 0 8 = 0x02#8) ∧
  encR 0x00#8 = 0x4002#16 ∧ encR 0x3F#8 = 0x7F02#16 ∧ encR 0x09#8 = 0x4902#16

/-- R79, R80: `dec` keeps the low byte and nothing else, `decDiag` keeps all sixteen bits. -/
def Obligations.ResponseDecodersKeepTheirBits : Prop :=
  ∀ rx : Frame, dec rx = rx.extractLsb' 0 8 ∧ decDiag rx = rx ∧
    ∀ rx' : Frame, rx.extractLsb' 0 8 = rx'.extractLsb' 0 8 → dec rx = dec rx'

/-- R84: the six laws of the codec. -/
def Obligations.CodecLaws : Prop :=
  (∀ (a : RegAddr) (v : Byte), dec (encW (a.setWidth 8) v) = v ∧
    (encW (a.setWidth 8) v).extractLsb' 14 2 = 0b10#2 ∧
    (encW (a.setWidth 8) v).extractLsb' 8 6 = a ∧ (encW (a.setWidth 8) v).extractLsb' 0 8 = v) ∧
  (∀ a : RegAddr, (encR (a.setWidth 8)).extractLsb' 14 2 = 0b01#2 ∧ (encR (a.setWidth 8)).extractLsb' 8 6 = a ∧
    (encR (a.setWidth 8)).extractLsb' 0 8 = 0x02#8 ∧ dec (encR (a.setWidth 8)) = 0x02#8) ∧
  (∀ a a' v : Byte, encW a v ≠ encR a' ∧ encW a v ≠ nopFrame ∧ encR a' ≠ nopFrame) ∧
  (∀ (a : Byte) (k : BitVec 2) (v : Byte), encW (a + (k.setWidth 8 <<< 6)) v = encW a v ∧
    encR (a + (k.setWidth 8 <<< 6)) = encR a) ∧
  (∀ (g : BitVec 4) (s : BitVec 2) (v : Byte), (encW ((pack g s).setWidth 8) v).extractLsb' 10 4 = g ∧
    (encW ((pack g s).setWidth 8) v).extractLsb' 8 2 = s)

/-- R81: `bit(i)` has exactly bit `i` set, and `setbit` gives bit `i` the value `on` and leaves the others. -/
def Obligations.SetbitTouchesOneChannel : Prop :=
  ∀ (old : Byte) (i : BitVec 3) (on : Bool),
    (∀ j : Nat, (channelBit i).getLsbD j = decide (j = i.toNat)) ∧
    setbit old i on = (if on then old ||| channelBit i else old &&& ~~~channelBit i) ∧
    (∀ j : Nat, (setbit old i on).getLsbD j = if j = i.toNat then on else old.getLsbD j) ∧
    (old.getLsbD i.toNat = on → setbit old i on = old)

/-! ### Encodings (30_encoding.md) -/

/-- Words written out from R60 and R57 to R59 decode to their instructions (95_test_vectors.md section 3.2). A frame
is named after the test for DIAG_REQ_FRAME (R66). -/
def Obligations.WrittenOutWordsDecode : Prop :=
  decodeCommand 0b00010000100100000000#20 = .ok (.rdreg 0x09#8 0x00#8) ∧
  decodeCommand 0b00100000000010100101#20 = .ok (.wrreg 0x00#8 0xA5#8) ∧
  decodeCommand 0b00111010101111001101#20 = .ok (.rddiag 0xAB#8 0xCD#8) ∧
  decodeCommand 0b01000000000100000001#20 = .ok (.setch 0x01#8 0x01#8) ∧
  decodeCommand 0b10010000000000000000#20 = .ok (.init 0x00#8 0x00#8) ∧
  decodeFrame 0b0000000000000000#16 = .ok .nop ∧
  decodeFrame Config.diagReqFrame = .ok .diagreq ∧
  decodeFrame 0b1000110111111111#16 =
    (if 0b1000110111111111#16 = Config.diagReqFrame then .ok .diagreq else .ok (.write 0x0D#8 0xFF#8)) ∧
  decodeFrame 0b0100100100000010#16 =
    (if 0b0100100100000010#16 = Config.diagReqFrame then .ok .diagreq else .ok (.readreq 0x09#8))

/-- Decoding an encoded well-formed instruction gives it back, every operand at every value: all nine commands, and the
four frames where DIAG_REQ_FRAME does not happen to be that very frame (R59, R66). -/
def Obligations.DecodeOfEncodeIsTheInstruction : Prop :=
  ∀ i : Instr, i.wellFormed = true → (encode i = .frame Config.diagReqFrame → i = .diagreq) →
    decode (encode i) = .ok i

/-- Each encoding has one meaning: what decodes encodes to the same bits, and is well formed. -/
def Obligations.EncodeOfDecodeIsTheWord : Prop :=
  ∀ (e : Encoded) (i : Instr), decode e = .ok i → encode i = e ∧ i.wellFormed = true

/-- R60, R61, R67: a command word is refused exactly when its op is 0x0 or 0xA to 0xF, whatever its other bits. -/
def Obligations.ExactlyTheUnassignedOpsAreIllegal : Prop :=
  ∀ w : CmdWord, decodeCommand w = .error (.illegalOp (cmdOp w)) ↔ (cmdOp w = 0x0#4 ∨ 0xA#4 ≤ cmdOp w)

/-- R66: the order in which a transmitted frame is named. -/
def Obligations.TransmittedFrameIsNamedInOrder : Prop :=
  ∀ t : Frame,
    (t = Config.diagReqFrame → decodeFrame t = .ok .diagreq) ∧
    (t ≠ Config.diagReqFrame → t = 0x0000#16 → decodeFrame t = .ok .nop) ∧
    (t ≠ Config.diagReqFrame → t ≠ 0x0000#16 → t &&& 0xC000#16 = 0x8000#16 →
      decodeFrame t = .ok (.write ((t.extractLsb' 8 6).setWidth 8) (t.extractLsb' 0 8))) ∧
    (t ≠ Config.diagReqFrame → t ≠ 0x0000#16 → t &&& 0xC000#16 ≠ 0x8000#16 → t &&& 0xC0FF#16 = 0x4002#16 →
      decodeFrame t = .ok (.readreq ((t.extractLsb' 8 6).setWidth 8))) ∧
    (t ≠ Config.diagReqFrame → t ≠ 0x0000#16 → t &&& 0xC000#16 ≠ 0x8000#16 → t &&& 0xC0FF#16 ≠ 0x4002#16 →
      decodeFrame t = .error (.notAFrame t))

/-- R69: what the host API's names stand for. A 1-based index of 0 becomes 255, a no-op. -/
def Obligations.HostApiExpandsToCommands : Prop :=
  (∀ (index : Byte) (on : Bool), ∃ a, ApiCall.expand (.setChannel index on) = some (.setch a index) ∧ onBit a = on) ∧
  (∀ (n : Byte) (on : Bool), ∃ a, ApiCall.expand (.toggleOutput n on) = some (.setch a (n - 1#8)) ∧ onBit a = on) ∧
  outOfRange (0#8 - 1#8) = true ∧
  (∀ mask, ApiCall.expand (.writeOutputs mask) = some (.wrreg 0x00#8 mask)) ∧
  (∀ mask, ApiCall.expand (.writeDiagnosticCurrent mask) = some (.wrreg 0x08#8 mask)) ∧
  (∀ index, ApiCall.expand (.clearError index) = some (.clrerr 0#8 index)) ∧
  ApiCall.expand .readOutputs = some (.rdreg 0x00#8 0#8) ∧
  ApiCall.expand .readOutputStatusMonitor = some (.rdreg 0x09#8 0#8) ∧
  ApiCall.expand .readDiagnosticCurrent = some (.rdreg 0x08#8 0#8) ∧
  ApiCall.expand .beginInit = some (.init 0#8 0#8) ∧
  ApiCall.expand .enterSleep = some (.sleep 0#8 0#8) ∧
  ApiCall.expand .enterActive = some (.active 0#8 0#8) ∧
  ApiCall.expand .clearAllErrors = some (.clrall 0#8 0#8) ∧
  ApiCall.expand .readStandardDiagnosis = some (.rddiag 0#8 0#8) ∧
  (∀ index, ApiCall.expand (.getOverloadStatus index) = none ∧ ApiCall.expand (.getOpenLoadStatus index) = none)

/-! ### Reset and the steps of the block (41_register_access.md R91, 70_reset_and_hazards.md) -/

/-- R27: PHASE, UPC, PEND and MODE after reset; no response is pending and no exchange is in progress. -/
def Obligations.ResetLeavesTheBlockIdle : Prop :=
  State.reset.phase = .idle ∧ State.reset.upc = 0 ∧ State.reset.pend = .none ∧ State.reset.mode = 0 ∧
    State.reset.trace = []

/-- The invariant holds at reset. -/
def Obligations.ResetMeetsTheInvariant : Prop := State.reset.Inv

/-- R150, R151: with `rst` high a step resets the block from any state, a running command abandoned without a response.
Where no exchange is in flight, or the device did not take its frame, nothing is sent; where it did (U19), that frame is
all that was sent. An exchange or a wait is cut, also one that would never end (R148). CR and DR are unspecified: nothing
is said of them. -/
def Obligations.ResetAppliesFromEveryState : Prop :=
  ∀ (s : State) (delivered : Bool) (rest : List ResetLevel), s.rst = .high delivered :: rest →
    ((∀ tx cap tag, s.microOp? ≠ some (.xfer tx cap tag)) →
      ∃ c d n, step s = .next { s with
        phase := .idle, upc := 0, pend := .none, mode := 0, cr := c, dr := d, draws := n, rst := rest,
        settle := if s.microOp? = some .wait then s.settle.tail else s.settle,
        device := s.device.map (Device.lineMoves s.mode 0),
        trace := s.trace ++ [.resetDone (s.phase == .run)] }) ∧
    (∀ tx cap tag, s.microOp? = some (.xfer tx cap tag) →
      ∃ c d n, step s = .next { s with
        phase := .idle, upc := 0, pend := .none, mode := 0, cr := c, dr := d, draws := n, rst := rest,
        script := s.script.tail,
        device := (if delivered then s.device.map (Device.take tx) else s.device).map (Device.lineMoves s.mode 0),
        trace := s.trace ++ (if delivered then [.sent tx] else []) ++ [.resetDone true] })

/-- A step runs the instruction its fetch reads: the word at the port in IDLE, which is then taken off the port, and
the word in CR in RUN; with `rst` low, whose level is taken off its list (R46, R91). In IDLE with no word offered the
block waits. -/
def Obligations.StepRunsTheFetchedInstruction : Prop :=
  ∀ (s : State) (i : Instr), s.RstLow →
    (∀ w rest, s.phase = .idle → s.offers = w :: rest → decodeCommand w = .ok i →
      step s = exec i { s with rst := s.rst.tail, offers := rest }) ∧
    (s.phase = .run → decodeCommand s.cr = .ok i → step s = exec i { s with rst := s.rst.tail }) ∧
    (s.phase = .idle → s.offers = [] → step s = .next { s with rst := s.rst.tail })

/-- R134: a word with an unassigned op is answered with status 2 and data 0x0000; no state element changes and no
exchange is made. `finfo` is unspecified. That the refused word is taken off the port is the model's reading, log entry
20: R134 is silent on it. -/
def Obligations.IllegalCommandIsRefusedAtAccept : Prop :=
  ∀ (s : State) (w : CmdWord) (rest : List CmdWord),
    s.RstLow → s.phase = .idle → s.offers = w :: rest → (cmdOp w = 0x0#4 ∨ 0xA#4 ≤ cmdOp w) →
    ∃ f n, step s = .next { s with
      rst := s.rst.tail, offers := rest, draws := n, trace := s.trace ++ [.responded ⟨2#2, 0x0000#16, f⟩] }

/-- Accept (R91): each of the nine commands latches its whole word, ignored fields included, clears UPC and starts;
nothing else changes. -/
def Obligations.AcceptLatchesTheWord : Prop :=
  ∀ (i : Instr) (w : CmdWord) (s : State), encode i = .command w → s.phase = .idle →
    exec i s = .next { s with cr := w, upc := 0, phase := .run, trace := s.trace ++ [.accepted w] }

/-- XFER (R90): where the exchange returns 16 bits, a command's step sends its frame, captures as its micro-program says,
sets the tag and counts UPC; nothing else changes. -/
def Obligations.CommandStepPerformsItsExchange : Prop :=
  ∀ (i : Instr) (s : State) (tx : Frame) (cap : Capture) (tag : Pend) (w : Frame),
    i.isCommand = true → s.phase = .run → (progOf i s.dr)[s.upc.toNat]? = some (.xfer tx cap tag) →
    s.answer = .rx w →
    exec i s = .next { s with
      dr := match cap with
        | .drop => s.dr
        | .data8 => (w.extractLsb' 0 8).setWidth 16
        | .data16 => w
      pend := tag, upc := s.upc + 1, script := s.script.tail, draws := s.draws + 1,
      device := s.device.map (Device.take tx), trace := s.trace ++ [.sent tx] }

/-- PIN and WAIT (R90, R143): PIN drives the line and counts UPC; a WAIT whose `wait_done` is high counts UPC and has no
other effect. -/
def Obligations.CommandStepPerformsPinAndWait : Prop :=
  ∀ (i : Instr) (s : State), i.isCommand = true → s.phase = .run →
    (∀ level, (progOf i s.dr)[s.upc.toNat]? = some (.pin level) →
      exec i s = .next { s with
        mode := level, device := s.device.map (Device.lineMoves s.mode level), upc := s.upc + 1,
        trace := s.trace ++ [.pin level] }) ∧
    ((progOf i s.dr)[s.upc.toNat]? = some .wait → s.WaitOver →
      exec i s = .next { s with
        settle := s.settle.tail, upc := s.upc + 1, trace := s.trace ++ [.settled] })

/-- Complete (R62, R91): at the end of its micro-program a command responds OK, with DR as data for RDREG and RDDIAG
and 0x0000 for every other command, and the block is IDLE. -/
def Obligations.CommandCompletesAtItsEnd : Prop :=
  ∀ (i : Instr) (s : State), i.isCommand = true → s.phase = .run → s.upc.toNat = (progOf i s.dr).length →
    ∃ f n, exec i s = .next { s with
      phase := .idle, upc := 0, draws := n,
      trace := s.trace ++ [.responded ⟨0#2,
        (match i with | .rdreg _ _ => s.dr | .rddiag _ _ => s.dr | _ => 0x0000#16), f⟩] }

/-- R133: where the exchange faults, the command is abandoned: its writes do not happen, PEND is emptied, UPC cleared,
PHASE idle, and the response carries status 1, data 0x0000 and the adapter's information; CR, DR and MODE keep their
values. -/
def Obligations.TransportFaultAbortsTheCommand : Prop :=
  ∀ (i : Instr) (s : State) (tx : Frame) (cap : Capture) (tag : Pend) (info : FaultInfo) (delivered : Bool),
    i.isCommand = true → s.phase = .run → (progOf i s.dr)[s.upc.toNat]? = some (.xfer tx cap tag) →
    s.answer = .fault info delivered →
    exec i s = .next { s with
      phase := .idle, upc := 0, pend := .none, script := s.script.tail, draws := s.draws + 1,
      device := (if delivered then s.device.map (Device.take tx) else s.device),
      trace := s.trace ++ [.sent tx, .responded ⟨1#2, 0x0000#16, info⟩] }

/-- R36, R148: an exchange that has not returned, and a WAIT whose `wait_done` is low, hold the block where it is, and so
do those that never end; no state element changes. -/
def Obligations.UnfinishedExchangeOrWaitHoldsTheBlock : Prop :=
  ∀ (i : Instr) (s : State), i.isCommand = true → s.phase = .run →
    (∀ tx cap tag, (progOf i s.dr)[s.upc.toNat]? = some (.xfer tx cap tag) →
      (s.answer = .pending → exec i s = .next { s with script := s.script.tail }) ∧
      (s.answer = .never → exec i s = .next s)) ∧
    ((progOf i s.dr)[s.upc.toNat]? = some .wait →
      (s.settle.head? = some .low → exec i s = .next { s with settle := s.settle.tail }) ∧
      (s.settle.head? = some .never → exec i s = .next s))

/-- A command answers a next state in IDLE, and in RUN up to the end of its micro-program, whatever the adapter
answers; beyond that end it stops with the named fault, a state no run reaches (log entry 9). -/
def Obligations.CommandAnswersNextUpToItsEnd : Prop :=
  ∀ (i : Instr) (s : State), i.isCommand = true →
    ((∃ t, exec i s = .next t) ↔ (s.phase = .idle ∨ s.upc.toNat ≤ (progOf i s.dr).length)) ∧
    (s.phase = .run → (progOf i s.dr).length < s.upc.toNat → exec i s = .fault .upcPastEnd)

/-- R56, R63: a frame (WRITE, READREQ, NOP, DIAGREQ) goes out where the running micro-program is at an exchange of it;
there it is that exchange, and the step of the running command is the same. -/
def Obligations.FrameIsExchangedWhereDue : Prop :=
  ∀ (f : Instr) (s : State) (tx : Frame) (cap : Capture) (tag : Pend) (w : Frame),
    encode f = .frame tx → s.microOp? = some (.xfer tx cap tag) → s.answer = .rx w →
    exec f s = .next { s with
      dr := match cap with
        | .drop => s.dr
        | .data8 => (w.extractLsb' 0 8).setWidth 16
        | .data16 => w
      pend := tag, upc := s.upc + 1, script := s.script.tail, draws := s.draws + 1,
      device := s.device.map (Device.take tx), trace := s.trace ++ [.sent tx] } ∧
    ∀ i, decodeCommand s.cr = .ok i → exec i s = exec f s

/-- R102: a frame that is not due is refused; in IDLE none is due. -/
def Obligations.FrameNotDueIsRefused : Prop :=
  ∀ (f : Instr) (s : State) (tx : Frame), encode f = .frame tx →
    (∀ cap tag, s.microOp? ≠ some (.xfer tx cap tag)) ∨ s.phase = .idle → exec f s = .refused .frameNotDue

/-! ### The micro-programs (41_register_access.md R98, R99) -/

/-- R99: what every micro-program is made of, its exchanges, pin moves, waits and length, whatever DR holds. -/
def Obligations.MicroProgramLengthsAreStatic : Prop :=
  ∀ (a d : Byte) (dr : BitVec 16),
    (progOf (.wrreg a d) dr = writeRegSeq a d ∧ opCounts (progOf (.wrreg a d) dr) = (2, 0, 0) ∧
      (progOf (.wrreg a d) dr).length = 2) ∧
    (progOf (.rdreg a d) dr = readRegSeq a ∧ opCounts (progOf (.rdreg a d) dr) = (3, 0, 0) ∧
      (progOf (.rdreg a d) dr).length = 3) ∧
    (progOf (.rddiag a d) dr = readDiagSeq ∧ opCounts (progOf (.rddiag a d) dr) = (2, 0, 0) ∧
      (progOf (.rddiag a d) dr).length = 2) ∧
    (d ≤ 7#8 → (∃ v, progOf (.setch a d) dr = readRegSeq 0x00#8 ++ writeRegSeq 0x00#8 v) ∧
      opCounts (progOf (.setch a d) dr) = (5, 0, 0) ∧ (progOf (.setch a d) dr).length = 5) ∧
    (7#8 < d → progOf (.setch a d) dr = []) ∧
    (d ≤ 7#8 → (∃ v, progOf (.clrerr a d) dr = writeRegSeq 0x0D#8 v) ∧
      opCounts (progOf (.clrerr a d) dr) = (2, 0, 0) ∧ (progOf (.clrerr a d) dr).length = 2) ∧
    (7#8 < d → progOf (.clrerr a d) dr = []) ∧
    (progOf (.clrall a d) dr = writeRegSeq 0x0D#8 0xFF#8 ∧ opCounts (progOf (.clrall a d) dr) = (2, 0, 0) ∧
      (progOf (.clrall a d) dr).length = 2) ∧
    (progOf (.sleep a d) dr = writeRegSeq 0x00#8 0x00#8 ++ [.pin 0, .wait] ∧
      opCounts (progOf (.sleep a d) dr) = (2, 1, 1) ∧ (progOf (.sleep a d) dr).length = 4) ∧
    ((∃ v, progOf (.active a d) dr = [.pin 1, .wait] ++ readRegSeq 0x0C#8 ++ writeRegSeq 0x0C#8 v) ∧
      opCounts (progOf (.active a d) dr) = (5, 1, 1) ∧ (progOf (.active a d) dr).length = 7) ∧
    ((∃ r1 r2 r3 r4 r5 r6 v1 v2 v3 v4 v5 v6, progOf (.init a d) dr = writeRegSeq r1 v1 ++ writeRegSeq r2 v2 ++
        writeRegSeq r3 v3 ++ writeRegSeq r4 v4 ++ writeRegSeq r5 v5 ++ writeRegSeq r6 v6) ∧
      opCounts (progOf (.init a d) dr) = (12, 0, 0) ∧ (progOf (.init a d) dr).length = 12)

/-- R98's table: the seven exchanges there are, each with PEND before it, its frame, its capture and PEND after it; and
every micro-program ends drained. -/
def Obligations.PendTransitionsFollowTheTable : Prop :=
  ∀ (i : Instr) (dr : BitVec 16), pendAfter (progOf i dr) = .none ∧
    ∀ (k : Nat) (tx : Frame) (cap : Capture) (tag : Pend), (progOf i dr)[k]? = some (.xfer tx cap tag) →
      (pendAfter ((progOf i dr).take k), cap, tag) ∈
        [(Pend.none, Capture.drop, Pend.wrStatus), (.wrStatus, .drop, .none),
         (.none, .drop, .rdData), (.rdData, .data8, .rdTrail), (.rdTrail, .drop, .none),
         (.none, .drop, .diagWord), (.diagWord, .data16, .none)] ∧
      (pendAfter ((progOf i dr).take k) ≠ .none → tx = nopFrame) ∧
      (tag = .wrStatus → ∃ a v, tx = encW a v) ∧ (tag = .rdData → ∃ a, tx = encR a) ∧
      (tag = .diagWord → tx = Config.diagReqFrame)

/-- R56: every frame a step sends has one of the four shapes. -/
def Obligations.OnlyTheFourShapesAreSent : Prop :=
  ∀ s t : State, step s = .next t → ∃ new, t.trace = s.trace ++ new ∧
    ∀ tx, .sent tx ∈ new →
      (∃ a v, tx = encW a v) ∨ (∃ a, tx = encR a) ∨ tx = nopFrame ∨ tx = Config.diagReqFrame

/-! ### Each command from Accept to its response -/

/-- WRREG (R93): both its frames in order, then OK with data 0x0000; DR and MODE are not written. Every address is
accepted, its bits [7:6] dropped. -/
def Obligations.WrregRunsToItsResponse : Prop :=
  ∀ (a d : Byte) (s : State) (r0 r1 : Frame) (rest : List Answer),
    s.phase = .idle → s.script = .rx r0 :: .rx r1 :: rest →
    ∃ f n, execRepeat (.wrreg a d) 4 s = .next { s with
      cr := commandWord 0x2#4 a d, upc := 0, pend := .none, script := rest, draws := n,
      device := s.device.map (Device.takeAll [encW a d, 0x0000#16]),
      trace := s.trace ++ [.accepted (commandWord 0x2#4 a d), .sent (encW a d), .sent 0x0000#16,
        .responded ⟨0#2, 0x0000#16, f⟩] }

/-- RDREG (R95): three frames; DR and the response are the low byte of the second received frame, zero-extended, and no
other received bit counts. -/
def Obligations.RdregRunsToItsResponse : Prop :=
  ∀ (a d : Byte) (s : State) (r0 r1 r2 : Frame) (rest : List Answer),
    s.phase = .idle → s.script = .rx r0 :: .rx r1 :: .rx r2 :: rest →
    ∃ f n, execRepeat (.rdreg a d) 5 s = .next { s with
      cr := commandWord 0x1#4 a d, dr := (r1.extractLsb' 0 8).setWidth 16, upc := 0, pend := .none,
      script := rest, draws := n,
      device := s.device.map (Device.takeAll [encR a, 0x0000#16, 0x0000#16]),
      trace := s.trace ++ [.accepted (commandWord 0x1#4 a d), .sent (encR a), .sent 0x0000#16, .sent 0x0000#16,
        .responded ⟨0#2, (r1.extractLsb' 0 8).setWidth 16, f⟩] }

/-- RDDIAG (R97): two frames; DR and the response are all sixteen bits of the second received frame. -/
def Obligations.RddiagRunsToItsResponse : Prop :=
  ∀ (a d : Byte) (s : State) (r0 r1 : Frame) (rest : List Answer),
    s.phase = .idle → s.script = .rx r0 :: .rx r1 :: rest →
    ∃ f n, execRepeat (.rddiag a d) 4 s = .next { s with
      cr := commandWord 0x3#4 a d, dr := r1, upc := 0, pend := .none, script := rest, draws := n,
      device := s.device.map (Device.takeAll [Config.diagReqFrame, 0x0000#16]),
      trace := s.trace ++ [.accepted (commandWord 0x3#4 a d), .sent Config.diagReqFrame, .sent 0x0000#16,
        .responded ⟨0#2, r1, f⟩] }

/-- SETCH with an index of 0 to 7 (R110): OUT is read, one bit of the byte received in the second exchange is set or
cleared, and the result written; five frames, then OK with data 0x0000. -/
def Obligations.SetchRunsToItsResponse : Prop :=
  ∀ (a d : Byte) (s : State) (r0 r1 r2 r3 r4 : Frame) (rest : List Answer),
    s.phase = .idle → d ≤ 7#8 → s.script = .rx r0 :: .rx r1 :: .rx r2 :: .rx r3 :: .rx r4 :: rest →
    ∃ f n, execRepeat (.setch a d) 7 s = .next { s with
      cr := commandWord 0x4#4 a d, dr := (r1.extractLsb' 0 8).setWidth 16, upc := 0, pend := .none,
      script := rest, draws := n,
      device := s.device.map (Device.takeAll [0x4002#16, 0x0000#16, 0x0000#16,
        encW 0x00#8 (setbit (r1.extractLsb' 0 8) (d.extractLsb' 0 3) (a.getLsbD 0)), 0x0000#16]),
      trace := s.trace ++ [.accepted (commandWord 0x4#4 a d), .sent 0x4002#16, .sent 0x0000#16, .sent 0x0000#16,
        .sent (encW 0x00#8 (setbit (r1.extractLsb' 0 8) (d.extractLsb' 0 3) (a.getLsbD 0))), .sent 0x0000#16,
        .responded ⟨0#2, 0x0000#16, f⟩] }

/-- R113: an index is valid when it is 0 to 7. SETCH and CLRERR with an index above 7 are no-ops: no exchange, no
state element but CR changes, and the response is OK with data 0x0000. The whole field is tested, so no index aliases a
channel. -/
def Obligations.OutOfRangeIndexIsANoOp : Prop :=
  ∀ (a d : Byte) (s : State), s.phase = .idle → s.upc = 0 →
    (d ≤ 7#8 → progOf (.setch a d) s.dr ≠ [] ∧ progOf (.clrerr a d) s.dr ≠ []) ∧
    (7#8 < d → progOf (.setch a d) s.dr = [] ∧ progOf (.clrerr a d) s.dr = [] ∧
      (∃ f n, execRepeat (.setch a d) 2 s = .next { s with
        cr := commandWord 0x4#4 a d, draws := n,
        trace := s.trace ++ [.accepted (commandWord 0x4#4 a d), .responded ⟨0#2, 0x0000#16, f⟩] }) ∧
      (∃ f n, execRepeat (.clrerr a d) 2 s = .next { s with
        cr := commandWord 0x5#4 a d, draws := n,
        trace := s.trace ++ [.accepted (commandWord 0x5#4 a d), .responded ⟨0#2, 0x0000#16, f⟩] }))

/-- CLRERR with an index of 0 to 7 (R111): one write of the channel's bit to HWCR_OCL, no read before it; DR and MODE
are not written. -/
def Obligations.ClrerrRunsToItsResponse : Prop :=
  ∀ (a d : Byte) (s : State) (r0 r1 : Frame) (rest : List Answer),
    s.phase = .idle → d ≤ 7#8 → s.script = .rx r0 :: .rx r1 :: rest →
    ∃ f n, execRepeat (.clrerr a d) 4 s = .next { s with
      cr := commandWord 0x5#4 a d, upc := 0, pend := .none, script := rest, draws := n,
      device := s.device.map (Device.takeAll [0x8D00#16 ||| (1#16 <<< d.toNat), 0x0000#16]),
      trace := s.trace ++ [.accepted (commandWord 0x5#4 a d), .sent (0x8D00#16 ||| (1#16 <<< d.toNat)),
        .sent 0x0000#16, .responded ⟨0#2, 0x0000#16, f⟩] }

/-- CLRALL (R112): 0xFF to HWCR_OCL. -/
def Obligations.ClrallRunsToItsResponse : Prop :=
  ∀ (a d : Byte) (s : State) (r0 r1 : Frame) (rest : List Answer),
    s.phase = .idle → s.script = .rx r0 :: .rx r1 :: rest →
    ∃ f n, execRepeat (.clrall a d) 4 s = .next { s with
      cr := commandWord 0x6#4 a d, upc := 0, pend := .none, script := rest, draws := n,
      device := s.device.map (Device.takeAll [0x8DFF#16, 0x0000#16]),
      trace := s.trace ++ [.accepted (commandWord 0x6#4 a d), .sent 0x8DFF#16, .sent 0x0000#16,
        .responded ⟨0#2, 0x0000#16, f⟩] }

/-- SLEEP (R120, R161): OUT is written 0 and drained before the line falls; then the wait; DR is not written. -/
def Obligations.SleepRunsToItsResponse : Prop :=
  ∀ (a d : Byte) (s : State) (r0 r1 : Frame) (rest : List Answer),
    s.phase = .idle → s.WaitOver → s.script = .rx r0 :: .rx r1 :: rest →
    ∃ f n, execRepeat (.sleep a d) 6 s = .next { s with
      cr := commandWord 0x7#4 a d, upc := 0, pend := .none, mode := 0, script := rest, settle := s.settle.tail,
      draws := n,
      device := (s.device.map (Device.takeAll [0x8000#16, 0x0000#16])).map (Device.lineMoves s.mode 0),
      trace := s.trace ++ [.accepted (commandWord 0x7#4 a d), .sent 0x8000#16, .sent 0x0000#16, .pin 0, .settled,
        .responded ⟨0#2, 0x0000#16, f⟩] }

/-- ACTIVE (R121): the line high, the wait, then HWCR read, ACT set in the byte received in its second exchange, and the
result written. -/
def Obligations.ActiveRunsToItsResponse : Prop :=
  ∀ (a d : Byte) (s : State) (r0 r1 r2 r3 r4 : Frame) (rest : List Answer),
    s.phase = .idle → s.WaitOver →
    s.script = .rx r0 :: .rx r1 :: .rx r2 :: .rx r3 :: .rx r4 :: rest →
    ∃ f n, execRepeat (.active a d) 9 s = .next { s with
      cr := commandWord 0x8#4 a d, dr := (r1.extractLsb' 0 8).setWidth 16, upc := 0, pend := .none, mode := 1,
      script := rest, settle := s.settle.tail, draws := n,
      device := (s.device.map (Device.lineMoves s.mode 1)).map (Device.takeAll [0x4C02#16, 0x0000#16, 0x0000#16,
        encW 0x0C#8 (r1.extractLsb' 0 8 ||| Config.hwcrActMask), 0x0000#16]),
      trace := s.trace ++ [.accepted (commandWord 0x8#4 a d), .pin 1, .settled, .sent 0x4C02#16, .sent 0x0000#16,
        .sent 0x0000#16, .sent (encW 0x0C#8 (r1.extractLsb' 0 8 ||| Config.hwcrActMask)), .sent 0x0000#16,
        .responded ⟨0#2, 0x0000#16, f⟩] }

/-- INIT (R122): six register writes in the order of the rule, each drained; DR and MODE are not written. -/
def Obligations.InitRunsToItsResponse : Prop :=
  ∀ (a d : Byte) (s : State) (r0 r1 r2 r3 r4 r5 r6 r7 r8 r9 r10 r11 : Frame) (rest : List Answer),
    s.phase = .idle →
    s.script = [.rx r0, .rx r1, .rx r2, .rx r3, .rx r4, .rx r5, .rx r6, .rx r7, .rx r8, .rx r9, .rx r10,
      .rx r11] ++ rest →
    ∃ f n, execRepeat (.init a d) 14 s = .next { s with
      cr := commandWord 0x9#4 a d, upc := 0, pend := .none, script := rest, draws := n,
      device := s.device.map (Device.takeAll [0x8DFF#16, 0x0000#16, encW 0x04#8 Config.mapin0Default, 0x0000#16,
        encW (Config.addrMapin1.setWidth 8) Config.mapin1Default, 0x0000#16,
        encW 0x08#8 Config.diagIolDefault, 0x0000#16, encW 0x0C#8 Config.hwcrActiveBaseline, 0x0000#16,
        0x8000#16, 0x0000#16]),
      trace := s.trace ++ [.accepted (commandWord 0x9#4 a d), .sent 0x8DFF#16, .sent 0x0000#16,
        .sent (encW 0x04#8 Config.mapin0Default), .sent 0x0000#16,
        .sent (encW (Config.addrMapin1.setWidth 8) Config.mapin1Default), .sent 0x0000#16,
        .sent (encW 0x08#8 Config.diagIolDefault), .sent 0x0000#16,
        .sent (encW 0x0C#8 Config.hwcrActiveBaseline), .sent 0x0000#16, .sent 0x8000#16, .sent 0x0000#16,
        .responded ⟨0#2, 0x0000#16, f⟩] }

/-! ### Rules of the whole machine -/

/-- Every step keeps the invariant: drained whenever IDLE (R18), on track while running (R11, R12, R98), the assumed
device's register space canonical. -/
def Obligations.EveryStepKeepsTheInvariant : Prop :=
  ∀ s t : State, s.Inv → step s = .next t → t.Inv

/-- Under the invariant no step stops: the block always has a next state (R91; the two faults are for states no run
reaches). -/
def Obligations.NoStepStopsUnderTheInvariant : Prop :=
  ∀ s : State, s.Inv → ∃ t, step s = .next t

/-- R12: UPC never exceeds 12. -/
def Obligations.UpcNeverExceedsTwelve : Prop :=
  ∀ s : State, s.Inv → s.upc ≤ 12#4

/-- R141: one response per accepted word. Every step keeps the account: as many commands begun as ended, but for the one
running. -/
def Obligations.EveryStepKeepsTheAccount : Prop :=
  ∀ s t : State, s.Accounted → step s = .next t → t.Accounted

/-- R141: at every response the block is IDLE and drained. -/
def Obligations.EveryResponseFindsTheBlockDrained : Prop :=
  ∀ (s t : State) (r : Response), s.Inv → step s = .next t → t.trace.getLast? = some (.responded r) →
    t.trace ≠ s.trace → t.phase = .idle ∧ t.pend = .none ∧ t.upc = 0

/-- R62, R131: a step's responses have status 0, 1 or 2, and data 0x0000 unless the status is 0. -/
def Obligations.ResponsesHaveTheirStatusAndData : Prop :=
  ∀ s t : State, step s = .next t → ∃ new, t.trace = s.trace ++ new ∧
    ∀ r, .responded r ∈ new → r.status = 0#2 ∨ ((r.status = 1#2 ∨ r.status = 2#2) ∧ r.data = 0x0000#16)

/-- R14, R27, U12: the values CR and DR hold in IDLE are never observed. Two IDLE states that differ only there send the
same frames and give the same responses, through any number of steps. -/
def Obligations.OldCrAndDrAreNeverObserved : Prop :=
  ∀ (n : Nat) (s t : State) (c : CmdWord) (d : BitVec 16), s.phase = .idle →
    Host.Core.run Sys2Proof.core n s = .next t →
    ∃ t' : State, Host.Core.run Sys2Proof.core n { s with cr := c, dr := d } = .next t' ∧
      t'.trace = t.trace ∧ t'.phase = t.phase ∧ t'.upc = t.upc ∧ t'.pend = t.pend ∧ t'.mode = t.mode ∧
      t'.device = t.device

/-- R37: no received bit steers the block. Whatever 16 bits the next exchange returns, the step leaves the same PHASE,
UPC, CR, PEND and MODE and does the same to the outside. -/
def Obligations.ReceivedBitsNeverSteerTheBlock : Prop :=
  ∀ (s t : State) (w w' : Frame) (rest : List Answer),
    step { s with script := .rx w :: rest } = .next t →
    ∃ t', step { s with script := .rx w' :: rest } = .next t' ∧ t'.phase = t.phase ∧ t'.upc = t.upc ∧
      t'.cr = t.cr ∧ t'.pend = t.pend ∧ t'.mode = t.mode ∧ t'.trace = t.trace ∧ t'.device = t.device

/-- R16, R123: MODE moves only by reset, to 0, by SLEEP's PIN, to 0, and by ACTIVE's PIN, to 1. -/
def Obligations.ModeMovesOnlyByPinOrReset : Prop :=
  ∀ s t : State, step s = .next t → t.mode ≠ s.mode →
    ((∃ delivered rest, s.rst = .high delivered :: rest) ∧ t.mode = 0) ∨
    (s.phase = .run ∧ ∃ a d, decodeCommand s.cr = .ok (.sleep a d) ∧ t.mode = 0) ∨
    (s.phase = .run ∧ ∃ a d, decodeCommand s.cr = .ok (.active a d) ∧ t.mode = 1)

/-- R14, R98 (b): under the invariant DR is written only by reset and by an exchange that returned, of the byte asked for
(PEND was RD_DATA) or of the diagnosis word (PEND was DIAG_WORD). -/
def Obligations.DrIsWrittenOnlyByACapture : Prop :=
  ∀ s t : State, s.Inv → step s = .next t → t.dr ≠ s.dr →
    (∃ delivered rest, s.rst = .high delivered :: rest) ∨
    (s.phase = .run ∧ ∃ w, s.answer = .rx w ∧
      ((s.pend = .rdData ∧ t.dr = (w.extractLsb' 0 8).setWidth 16) ∨ (s.pend = .diagWord ∧ t.dr = w)))

/-- R13, R46: while a command runs and `rst` is low, CR keeps its word and the command port is not looked at: a step
leaves the words offered, and whatever is offered instead, it is the same step. -/
def Obligations.RunningBlockIgnoresThePort : Prop :=
  ∀ s t : State, s.phase = .run → s.RstLow → step s = .next t →
    t.cr = s.cr ∧ t.offers = s.offers ∧
    ∀ offers, step { s with offers := offers } = .next { t with offers := offers }

/-! ### The assumed device (20_memory.md R38 to R41): the model's premise, not a rule about the block -/

/-- Every device register but those a command writes keeps what it holds through every step of the command, awake and
with no change of its own. For SLEEP's PIN(0), after which the line is low, this is the model's choice, log entry 17. -/
def Obligations.CommandLeavesOtherDeviceRegisters : Prop :=
  ∀ (i : Instr) (s t : State) (d d' : Device) (r : RegAddr),
    i.isCommand = true → s.device = some d → d.asleep = false → d.changes = [] → exec i s = .next t →
    t.device = some d' → r ∉ writesTo i → d'.regs.read r = d.regs.read r

/-- R49: what WRREG writes to an ordinary register, the next RDREG of it responds with. Where one of the two frames is
DIAG_REQ_FRAME this is the model's choice, log entry 6. -/
def Obligations.WriteThenReadRoundTrip : Prop :=
  ∀ (a v e : Byte) (s : State) (dev : Device), s.phase = .idle → s.FarEndIs dev →
    a.setWidth 6 ∈ dev.ordinary → a.setWidth 6 ≠ RegName.hwcrOcl.addr →
    ∃ t1 t2 f, execRepeat (.wrreg a v) 4 s = .next t1 ∧ execRepeat (.rdreg a e) 5 t1 = .next t2 ∧
      t2.trace.getLast? = some (.responded ⟨0#2, v.setWidth 16, f⟩)

/-- R39, R40, R95: RDREG of a register whose content is known responds with it and changes no register. Where the read
request is DIAG_REQ_FRAME this is the model's choice, log entry 6. -/
def Obligations.RdregRespondsWithTheRegister : Prop :=
  ∀ (a e v : Byte) (s : State) (dev : Device), s.phase = .idle → s.FarEndIs dev →
    dev.regs.read (a.setWidth 6) = some v →
    ∃ t f dev', execRepeat (.rdreg a e) 5 s = .next t ∧
      t.trace.getLast? = some (.responded ⟨0#2, v.setWidth 16, f⟩) ∧ t.device = some dev' ∧ dev'.regs = dev.regs

/-- R114 (1), (4): SETCH sets bit `i` of OUT to `on` and leaves the other seven and every other register; with an index
above 7 it leaves OUT as it was. Where one of its frames is DIAG_REQ_FRAME this is the model's choice, log entry 6. -/
def Obligations.SetchSetsOneBitOfOut : Prop :=
  ∀ (a d old : Byte) (s : State) (dev : Device), s.phase = .idle → s.FarEndIs dev →
    RegName.out.addr ∈ dev.ordinary → dev.regs.read RegName.out.addr = some old →
    ∃ t dev', execRepeat (.setch a d) (if d ≤ 7#8 then 7 else 2) s = .next t ∧ t.device = some dev' ∧
      dev'.regs.read RegName.out.addr =
        some (if d ≤ 7#8 then setbit old (d.extractLsb' 0 3) (a.getLsbD 0) else old) ∧
      ∀ r, r ≠ RegName.out.addr → dev'.regs.read r = dev.regs.read r

/-- R114 (2): bit isolation. Setting channel `i` and then clearing channel `j` leaves every other bit of OUT. Where one of
the frames is DIAG_REQ_FRAME this is the model's choice, log entry 6. -/
def Obligations.SetchBitIsolation : Prop :=
  ∀ (i j old : Byte) (s : State) (dev : Device), s.phase = .idle → s.FarEndIs dev →
    RegName.out.addr ∈ dev.ordinary → dev.regs.read RegName.out.addr = some old →
    i ≤ 7#8 → j ≤ 7#8 → i ≠ j →
    ∃ t1 t2 dev' new, execRepeat (.setch 0x01#8 i) 7 s = .next t1 ∧ execRepeat (.setch 0x00#8 j) 7 t1 = .next t2 ∧
      t2.device = some dev' ∧ dev'.regs.read RegName.out.addr = some new ∧
      new.getLsbD i.toNat = true ∧ new.getLsbD j.toNat = false ∧
      ∀ k, k ≠ i.toNat → k ≠ j.toNat → new.getLsbD k = old.getLsbD k

/-- R121: ACTIVE twice leaves the HWCR that ACTIVE once leaves, with ACT set and the other bits as they were. Where one of
the frames is DIAG_REQ_FRAME this is the model's choice, log entry 6. -/
def Obligations.ActiveTwiceIsActiveOnce : Prop :=
  ∀ (a d h : Byte) (s : State) (dev : Device), s.phase = .idle → s.settle = [] → s.FarEndIs dev →
    RegName.hwcr.addr ∈ dev.ordinary → dev.regs.read RegName.hwcr.addr = some h →
    ∃ t1 t2 d1 d2, execRepeat (.active a d) 9 s = .next t1 ∧ t1.device = some d1 ∧ t1.mode = 1 ∧
      d1.regs.read RegName.hwcr.addr = some (h ||| Config.hwcrActMask) ∧
      execRepeat (.active a d) 9 t1 = .next t2 ∧ t2.device = some d2 ∧ t2.mode = 1 ∧
      d2.regs.read RegName.hwcr.addr = d1.regs.read RegName.hwcr.addr

/-- R23, R111, R112, R122, R153: CLRERR clears one latch and leaves the others, CLRALL and INIT clear all, also where the
latches were not known before. That a written 0 has no effect is R23's inference, log entry 23; where one of the frames is
DIAG_REQ_FRAME its taking is the model's choice, log entry 6. -/
def Obligations.LatchesAreClearedByWritingOnes : Prop :=
  ∀ (a d : Byte) (s : State) (dev : Device), s.phase = .idle → s.FarEndIs dev →
    (d ≤ 7#8 → ∃ t dev' new, execRepeat (.clrerr a d) 4 s = .next t ∧ t.device = some dev' ∧
      dev'.regs.read RegName.hwcrOcl.addr = some new ∧ new.getLsbD d.toNat = false ∧
      ∀ old, dev.regs.read RegName.hwcrOcl.addr = some old →
        ∀ k, new.getLsbD k = (old.getLsbD k && decide (k ≠ d.toNat))) ∧
    (∃ t dev', execRepeat (.clrall a d) 4 s = .next t ∧ t.device = some dev' ∧
      dev'.regs.read RegName.hwcrOcl.addr = some 0x00#8) ∧
    (∃ t dev', execRepeat (.init a d) 14 s = .next t ∧ t.device = some dev' ∧
      dev'.regs.read RegName.hwcrOcl.addr = some 0x00#8)

/-- R120, Scenario D: SLEEP leaves OUT at 0x00 whatever it held, and the line low. That OUT still reads so once the line
has fallen is the model's choice, log entry 17, and so is the taking of 0x8000 where that is DIAG_REQ_FRAME, log entry
6. -/
def Obligations.SleepForcesOutputsOff : Prop :=
  ∀ (a d : Byte) (s : State) (dev : Device), s.phase = .idle → s.settle = [] → s.FarEndIs dev →
    RegName.out.addr ∈ dev.ordinary →
    ∃ t dev', execRepeat (.sleep a d) 6 s = .next t ∧ t.mode = 0 ∧ t.device = some dev' ∧
      dev'.regs.read RegName.out.addr = some 0x00#8

/-! ### Hanging and ending (60_exceptions.md R148) -/

/-- R148: where an exchange never returns, or `wait_done` never rises, the block stays in RUN for ever, accepts nothing
and responds to nothing: through any number of steps with `rst` low nothing changes but that `rst` is read. -/
def Obligations.HangingBlockStaysForEver : Prop :=
  ∀ (n : Nat) (s : State), s.Hangs → (∀ l ∈ s.rst, l = .low) →
    s.phase = .run ∧ Host.Core.run Sys2Proof.core n s = .next { s with rst := s.rst.drop n }

/-- R148: where every exchange and every wait returns, a running command ends: within as many steps as answers and
levels stand in the lists, and 13 more, the block is IDLE and its last act is a response. -/
def Obligations.FairCommandEnds : Prop :=
  ∀ s : State, s.Inv → s.phase = .run → s.rst = [] → s.Fair →
    ∃ n t r, n ≤ s.script.length + s.settle.length + 13 ∧ Host.Core.run Sys2Proof.core n s = .next t ∧
      t.phase = .idle ∧ t.trace.getLast? = some (.responded r)
end

