-- ==== Sys2Proof/Laws/Codec.lean ====
section
/-! SUPPORT. The bits of the frames and of the captured byte: the form in which proofs reason about them. -/

namespace Sys2Proof.Machine

/-- A captured byte is the byte that was received (R14, R79). -/
@[simp] theorem dec_zext16 (b : Byte) : dec (zext16 b) = b := by
  apply BitVec.eq_of_getLsbD_eq
  intro i hi
  simp [dec, zext16, hi]
  omega

/-- The bits of a write frame. -/
theorem encW_getLsbD (a v : Byte) (i : Nat) :
    (encW a v).getLsbD i =
      if i < 8 then v.getLsbD i else if i < 14 then a.getLsbD (i - 8) else decide (i = 15) := by
  by_cases h : i < 16
  · simp only [encW, BitVec.getLsbD_or, BitVec.getLsbD_shiftLeft, BitVec.getLsbD_setWidth, BitVec.getLsbD_and]
    interval_cases i <;> simp
  · have : i ≠ 15 := by omega
    rw [BitVec.getLsbD_of_ge _ _ (by omega), if_neg (by omega), if_neg (by omega)]; simp [this]

/-- The bits of a read-request frame. -/
theorem encR_getLsbD (a : Byte) (i : Nat) :
    (encR a).getLsbD i =
      if i < 8 then decide (i = 1) else if i < 14 then a.getLsbD (i - 8) else decide (i = 14) := by
  by_cases h : i < 16
  · simp only [encR, BitVec.getLsbD_or, BitVec.getLsbD_shiftLeft, BitVec.getLsbD_setWidth, BitVec.getLsbD_and]
    interval_cases i <;> simp
  · have : i ≠ 14 := by omega
    rw [BitVec.getLsbD_of_ge _ _ (by omega), if_neg (by omega), if_neg (by omega)]; simp [this]

/-- The low byte of a frame put together from two bytes. -/
theorem dec_append (x y : Byte) : dec ((x ++ y : BitVec (8 + 8))) = y := by
  apply BitVec.eq_of_getLsbD_eq
  intro i hi
  show (BitVec.extractLsb' 0 8 (x ++ y)).getLsbD i = _
  rw [BitVec.getLsbD_extractLsb']
  show (decide (i < 8) && BitVec.getLsbD (w := 8 + 8) (x ++ y) (0 + i)) = _
  rw [BitVec.getLsbD_append]
  simp [hi]

/-- The address a write frame carries: the low six bits of the operand (R34, R77). -/
@[simp] theorem encW_address (a v : Byte) : (encW a v).extractLsb' 8 6 = a.setWidth 6 := by
  apply BitVec.eq_of_getLsbD_eq
  intro i hi
  rw [BitVec.getLsbD_extractLsb', encW_getLsbD, if_neg (by omega), if_pos (by omega)]
  simp [hi]

/-- The value a write frame carries. -/
@[simp] theorem frameByte_encW (a v : Byte) : frameByte (encW a v) = v := by
  apply BitVec.eq_of_getLsbD_eq
  intro i hi
  simp [frameByte, encW_getLsbD, hi]

/-- The type bits of a write frame. -/
@[simp] theorem encW_type (a v : Byte) : encW a v &&& 0xC000#16 = 0x8000#16 := by
  apply BitVec.eq_of_getLsbD_eq
  intro i hi
  simp only [BitVec.getLsbD_and, encW_getLsbD]
  interval_cases i <;> simp

/-- The address a read-request frame carries. -/
@[simp] theorem encR_address (a : Byte) : (encR a).extractLsb' 8 6 = a.setWidth 6 := by
  apply BitVec.eq_of_getLsbD_eq
  intro i hi
  rw [BitVec.getLsbD_extractLsb', encR_getLsbD, if_neg (by omega), if_pos (by omega)]
  simp [hi]

/-- The type bits of a read-request frame. -/
@[simp] theorem encR_type (a : Byte) : encR a &&& 0xC000#16 = 0x4000#16 := by
  apply BitVec.eq_of_getLsbD_eq
  intro i hi
  simp only [BitVec.getLsbD_and, encR_getLsbD]
  interval_cases i <;> simp

/-- The type bits and the trailer of a read-request frame. -/
@[simp] theorem encR_type_trailer (a : Byte) : encR a &&& 0xC0FF#16 = 0x4002#16 := by
  apply BitVec.eq_of_getLsbD_eq
  intro i hi
  simp only [BitVec.getLsbD_and, encR_getLsbD]
  interval_cases i <;> simp

end Sys2Proof.Machine
end

