-- ==== Sys2Proof/Laws/Decode.lean ====
section
/-! SUPPORT. What the decoders and the open parameters satisfy. -/

namespace Sys2Proof

/-- DIAG_REQ_FRAME ≠ NOP_FRAME (R59). -/
theorem Config.diagReqFrame_ne_zero : Config.diagReqFrame ≠ 0x0000#16 := by
  intro h
  have hv := congrArg BitVec.toNat h
  have := Config.diagReqIndex.isLt
  simp only [Config.diagReqFrame, BitVec.toNat_ofNat] at hv
  omega

/-- HWCR_ACT_MASK has exactly one bit set (R22). -/
theorem Config.hwcrActMask_getLsbD (j : Nat) :
    Config.hwcrActMask.getLsbD j = decide (j = Config.hwcrActBit.val) := by
  have h := Config.hwcrActBit.isLt
  simp only [Config.hwcrActMask, BitVec.getLsbD_shiftLeft, BitVec.getLsbD_one]
  by_cases hj : j = Config.hwcrActBit.val
  · subst hj; simp [h]
  · simp only [hj, decide_false]
    by_cases hlt : j < Config.hwcrActBit.val
    · simp [hlt]
    · have hpos : j - Config.hwcrActBit.val ≠ 0 := by omega
      simp [hpos]

/-- The bits of a command word, from its fields (R60). -/
theorem commandWord_getLsbD (op : BitVec 4) (a d : Byte) (i : Nat) :
    (commandWord op a d).getLsbD i =
      if i < 8 then d.getLsbD i else if i < 16 then a.getLsbD (i - 8) else op.getLsbD (i - 16) := by
  show BitVec.getLsbD (w := 4 + 8 + 8) (op ++ a ++ d) i = _
  rw [BitVec.getLsbD_append]
  split
  · rfl
  · rw [BitVec.getLsbD_append]
    by_cases h : i < 16
    · rw [if_pos (by omega), if_pos h]
    · rw [if_neg (by omega), if_neg h, Nat.sub_sub]

/-- A command word is its three fields (R60). -/
theorem commandWord_fields (w : CmdWord) : commandWord (cmdOp w) (cmdA w) (cmdD w) = w := by
  ext i hi
  rw [← BitVec.getLsbD_eq_getElem, commandWord_getLsbD, ← BitVec.getLsbD_eq_getElem]
  simp only [cmdOp, cmdA, cmdD, BitVec.getLsbD_extractLsb']
  split
  · simp [*]
  · split
    · rw [decide_eq_true (by omega), Bool.true_and]; congr 1; omega
    · rw [decide_eq_true (by omega), Bool.true_and]; congr 1; omega

@[simp] theorem cmdOp_commandWord (op : BitVec 4) (a d : Byte) : cmdOp (commandWord op a d) = op := by
  ext i hi
  rw [← BitVec.getLsbD_eq_getElem, ← BitVec.getLsbD_eq_getElem]
  simp only [cmdOp, BitVec.getLsbD_extractLsb', commandWord_getLsbD, hi, decide_true, Bool.true_and]
  rw [if_neg (by omega), if_neg (by omega)]
  congr 1; omega

@[simp] theorem cmdA_commandWord (op : BitVec 4) (a d : Byte) : cmdA (commandWord op a d) = a := by
  ext i hi
  rw [← BitVec.getLsbD_eq_getElem, ← BitVec.getLsbD_eq_getElem]
  simp [cmdA, commandWord_getLsbD, hi]
  intro h; omega

@[simp] theorem cmdD_commandWord (op : BitVec 4) (a d : Byte) : cmdD (commandWord op a d) = d := by
  ext i hi
  rw [← BitVec.getLsbD_eq_getElem, ← BitVec.getLsbD_eq_getElem]
  simp [cmdD, commandWord_getLsbD, hi]

/-- The frame decoder tests in R66's order: since DIAG_REQ_FRAME is not zero, testing the zero frame first changes
nothing. -/
theorem decodeFrame_order (t : Frame) :
    decodeFrame t =
      if t = Config.diagReqFrame then .ok .diagreq
      else if t = 0x0000#16 then .ok .nop
      else if t &&& 0xC000#16 = 0x8000#16 then .ok (.write (frameAddress t) (frameByte t))
      else if t &&& 0xC0FF#16 = 0x4002#16 then .ok (.readreq (frameAddress t))
      else .error (.notAFrame t) := by
  unfold decodeFrame
  by_cases h : t = 0x0000#16
  · subst h; simp [Config.diagReqFrame_ne_zero.symm]
  · simp [h]

end Sys2Proof
end

