-- ==== Sys2Proof/Laws/Memory.lean ====
section
/-! SUPPORT. The register space: read after write, and the canonical form, which every operation keeps. -/

namespace Sys2Proof.Machine

variable (m : Memory) (a a' : RegAddr) (b : Byte)

@[simp] theorem Memory.read_nil : Memory.read [] a = none := rfl

/-- A read after a write to the same register gives the value written. -/
@[simp] theorem Memory.read_write_same : (m.write a b).read a = some b := by
  induction m with
  | nil => simp [Memory.write, Memory.read]
  | cons c rest ih =>
    obtain ⟨k, x⟩ := c
    simp only [Memory.write]
    split
    · simp [Memory.read]
    · split
      · simp [Memory.read]
      · rename_i h; simp [Memory.read, h, ih]

/-- A write leaves every other register alone. -/
theorem Memory.read_write_other (h : a' ≠ a) : (m.write a b).read a' = m.read a' := by
  have h' : a.toNat ≠ a'.toNat := fun e => h (BitVec.eq_of_toNat_eq e.symm)
  induction m with
  | nil => simp [Memory.write, Memory.read, h', Memory.unlisted]
  | cons c rest ih =>
    obtain ⟨k, x⟩ := c
    simp only [Memory.write]
    split
    · simp [Memory.read, h']
    · split
      · rename_i hk; subst hk; simp [Memory.read, h']
      · simp [Memory.read, ih]

/-- Forgetting one register leaves every other alone. -/
theorem Memory.read_forget_other (h : a' ≠ a) : (m.forget a).read a' = m.read a' := by
  have h' : a.toNat ≠ a'.toNat := fun e => h (BitVec.eq_of_toNat_eq e.symm)
  induction m with
  | nil => rfl
  | cons c rest ih =>
    obtain ⟨k, x⟩ := c
    simp only [Memory.forget]
    split
    · rename_i hk; subst hk; simp [Memory.read, h']
    · simp [Memory.read, ih]

theorem Memory.mem_write (c : Host.Cell) (h : c ∈ m.write a b) : c = (a.toNat, b) ∨ c ∈ m := by
  induction m with
  | nil => simpa [Memory.write] using h
  | cons x rest ih =>
    obtain ⟨k, y⟩ := x
    simp only [Memory.write] at h
    split at h
    · simpa using h
    · split at h
      · simp only [List.mem_cons] at h ⊢; tauto
      · simp only [List.mem_cons] at h ⊢; tauto

theorem Memory.mem_forget (c : Host.Cell) (h : c ∈ m.forget a) : c ∈ m := by
  induction m with
  | nil => simp [Memory.forget] at h
  | cons x rest ih =>
    simp only [Memory.forget] at h
    split at h
    · exact List.mem_cons_of_mem _ h
    · simp only [List.mem_cons] at h ⊢; tauto

theorem Memory.wf_nil : Memory.wf [] := by simp [Memory.wf]

/-- Writing keeps the canonical form. -/
theorem Memory.wf_write (h : m.wf) : (m.write a b).wf := by
  refine ⟨?_, fun c hc => ?_⟩
  · have hp := h.1
    clear h
    induction m with
    | nil => simp [Memory.write]
    | cons x rest ih =>
      obtain ⟨k, y⟩ := x
      rw [List.pairwise_cons] at hp
      simp only [Memory.write]
      split
      · rename_i hlt
        rw [List.pairwise_cons, List.pairwise_cons]
        refine ⟨fun c hc => ?_, hp⟩
        rcases List.mem_cons.mp hc with rfl | hc
        · exact hlt
        · exact lt_trans hlt (hp.1 c hc)
      · split
        · rename_i hk; subst hk
          exact List.pairwise_cons.mpr hp
        · refine List.pairwise_cons.mpr ⟨fun c hc => ?_, ih hp.2⟩
          rcases Memory.mem_write _ _ _ _ hc with rfl | hc
          · simp only; omega
          · exact hp.1 c hc
  · rcases Memory.mem_write _ _ _ _ hc with rfl | hc
    · exact a.isLt
    · exact h.2 c hc

/-- Forgetting keeps the canonical form. -/
theorem Memory.wf_forget (h : m.wf) : (m.forget a).wf := by
  refine ⟨?_, fun c hc => h.2 c (Memory.mem_forget _ _ _ hc)⟩
  have hp := h.1
  clear h
  induction m with
  | nil => simp [Memory.forget]
  | cons x rest ih =>
    rw [List.pairwise_cons] at hp
    simp only [Memory.forget]
    split
    · exact hp.2
    · exact List.pairwise_cons.mpr ⟨fun c hc => hp.1 c (Memory.mem_forget _ _ _ hc), ih hp.2⟩

end Sys2Proof.Machine
end

