-- ==== Sys2Proof/Laws/Device.lean ====
section
/-! SUPPORT. What the assumed device's operations can do. -/

namespace Sys2Proof.Machine

variable (d : Device)

/-- Setting the latches leaves every register but HWCR_OCL alone. -/
theorem Device.setLatches_other (a : RegAddr) (b : Byte) (h : a ≠ RegName.hwcrOcl.addr) :
    (d.setLatches b).regs.read a = d.regs.read a := Memory.read_write_other _ _ _ _ h

@[simp] theorem Device.setLatches_read (b : Byte) :
    (d.setLatches b).regs.read RegName.hwcrOcl.addr = some b := Memory.read_write_same _ _ _

theorem Device.setLatches_wf (b : Byte) (h : Memory.wf d.regs) : Memory.wf (d.setLatches b).regs :=
  Memory.wf_write _ _ _ h

/-- Where HWCR_OCL is known, its latches are its content. -/
theorem Device.latches_known (b : Byte) (h : d.regs.read RegName.hwcrOcl.addr = some b) : d.latches = b := by
  simp [Device.latches, h]

/-- A latch that is set stays set through the device's own changes (R162). -/
theorem Device.changeItself_keepsLatches (a : RegAddr) (b : Byte) :
    (d.changeItself a b).latches &&& d.latches = d.latches := by
  unfold Device.changeItself
  split
  · rw [Device.latches_known _ _ (d.setLatches_read _)]
    ext i; simp; tauto
  · rename_i h
    have same : (d.regs.write a b).read RegName.hwcrOcl.addr = d.regs.read RegName.hwcrOcl.addr :=
      Memory.read_write_other _ _ _ _ (Ne.symm h)
    simp [Device.latches, same]

theorem Device.changeItself_wf (a : RegAddr) (b : Byte) (h : Memory.wf d.regs) :
    Memory.wf (d.changeItself a b).regs := by
  unfold Device.changeItself
  split
  · exact d.setLatches_wf _ h
  · exact Memory.wf_write _ _ _ h

theorem Device.ownChange_wf (h : Memory.wf d.regs) : Memory.wf d.ownChange.regs := by
  unfold Device.ownChange
  split
  · split
    · exact Device.changeItself_wf _ _ _ h
    · exact h
  · exact h
  · exact h

@[simp] theorem Device.ownChange_asleep : d.ownChange.asleep = d.asleep := by
  unfold Device.ownChange Device.changeItself Device.setLatches; split <;> (try split) <;> (try split) <;> rfl

@[simp] theorem Device.ownChange_ordinary : d.ownChange.ordinary = d.ordinary := by
  unfold Device.ownChange Device.changeItself Device.setLatches; split <;> (try split) <;> (try split) <;> rfl

theorem Device.ownChange_none (h : d.changes = []) : d.ownChange = d := by
  unfold Device.ownChange; split <;> simp_all

theorem Device.takeWrite_wf (a : RegAddr) (v : Byte) (h : Memory.wf d.regs) : Memory.wf (d.takeWrite a v).regs := by
  unfold Device.takeWrite
  split
  · exact d.setLatches_wf _ h
  · split
    · exact Memory.wf_write _ _ _ h
    · exact Memory.wf_forget _ _ h

/-- A write to HWCR_OCL clears the latches written 1 and leaves the others, whatever the register held (R23). -/
theorem Device.takeWrite_latches (v : Byte) :
    (d.takeWrite RegName.hwcrOcl.addr v).regs.read RegName.hwcrOcl.addr = some (d.latches &&& ~~~v) := by
  rw [Device.takeWrite, if_pos rfl]; exact d.setLatches_read _

/-- A write to an ordinary register stores (R40). -/
theorem Device.takeWrite_ordinary (a : RegAddr) (v : Byte) (ha : a ≠ RegName.hwcrOcl.addr) (hm : a ∈ d.ordinary) :
    (d.takeWrite a v).regs.read a = some v := by
  rw [Device.takeWrite, if_neg ha, if_pos hm]; exact Memory.read_write_same _ _ _

/-- Taking a frame keeps the register space canonical. -/
theorem Device.take_wf (tx : Frame) (h : Memory.wf d.regs) : Memory.wf (d.take tx).regs := by
  have h' := d.ownChange_wf h
  simp only [Device.take]
  split
  · split
    · exact Memory.wf_forget _ _ h'
    · exact Device.takeWrite_wf _ _ _ h'
  · split <;> exact h'

/-- So does a move of the mode-control line. -/
theorem Device.lineMoves_wf (old new : Level) (h : Memory.wf d.regs) : Memory.wf (d.lineMoves old new).regs := by
  unfold Device.lineMoves
  split
  · exact h
  · split
    · exact Memory.wf_nil
    · exact h

/-- A write frame the device takes leaves every register but the one it names alone. -/
theorem Device.takeWrite_other (a a' : RegAddr) (v : Byte) (h : a' ≠ a) :
    (d.takeWrite a v).regs.read a' = d.regs.read a' := by
  unfold Device.takeWrite
  split
  · rename_i ha; exact d.setLatches_other _ _ (ha ▸ h)
  · split
    · exact Memory.read_write_other _ _ _ _ h
    · exact Memory.read_forget_other _ _ _ h

/-- A device awake that changes nothing of its own takes a write frame as a write (R40). -/
theorem Device.take_encW (a v : Byte) (awake : d.asleep = false) (quiet : d.changes = []) :
    d.take (encW a v) = d.takeWrite (a.setWidth 6) v := by
  simp [Device.take, d.ownChange_none quiet, awake]

/-- It takes a read request as a debt of the register's content, and no register changes (R39, R40). -/
theorem Device.take_encR (a : Byte) (quiet : d.changes = []) :
    d.take (encR a) = { d with owed := d.regs.read (a.setWidth 6) } := by
  simp [Device.take, d.ownChange_none quiet]

/-- A NOP frame leaves no debt (R47). -/
theorem Device.take_nop (quiet : d.changes = []) : d.take nopFrame = { d with owed := none } := by
  simp [Device.take, d.ownChange_none quiet, nopFrame]

/-- What the block keeps of the frame of a device that owes `b` is `b` (R39). -/
theorem Device.dec_shiftOut (b : Byte) (free : Frame) (awake : d.asleep = false) (owes : d.owed = some b) :
    dec (d.shiftOut free) = b := by
  simp only [Device.shiftOut, awake, owes]
  exact dec_append _ _

end Sys2Proof.Machine
end

