-- ==== Sys2Proof/Laws/State.lean ====
section
/-! SUPPORT. One lemma per field per update of State, each true by rfl: what an operation sets and what it leaves. -/

namespace Sys2Proof.Machine

variable (s : State)

@[simp] theorem State.log_phase (e : Event) : (s.log e).phase = s.phase := rfl
@[simp] theorem State.log_upc (e : Event) : (s.log e).upc = s.upc := rfl
@[simp] theorem State.log_cr (e : Event) : (s.log e).cr = s.cr := rfl
@[simp] theorem State.log_dr (e : Event) : (s.log e).dr = s.dr := rfl
@[simp] theorem State.log_pend (e : Event) : (s.log e).pend = s.pend := rfl
@[simp] theorem State.log_mode (e : Event) : (s.log e).mode = s.mode := rfl
@[simp] theorem State.log_offers (e : Event) : (s.log e).offers = s.offers := rfl
@[simp] theorem State.log_rst (e : Event) : (s.log e).rst = s.rst := rfl
@[simp] theorem State.log_script (e : Event) : (s.log e).script = s.script := rfl
@[simp] theorem State.log_settle (e : Event) : (s.log e).settle = s.settle := rfl
@[simp] theorem State.log_device (e : Event) : (s.log e).device = s.device := rfl
@[simp] theorem State.log_draws (e : Event) : (s.log e).draws = s.draws := rfl
@[simp] theorem State.log_trace (e : Event) : (s.log e).trace = s.trace ++ [e] := rfl

@[simp] theorem State.exchanged_phase (tx : Frame) (delivered : Bool) : (s.exchanged tx delivered).phase = s.phase := rfl
@[simp] theorem State.exchanged_upc (tx : Frame) (delivered : Bool) : (s.exchanged tx delivered).upc = s.upc := rfl
@[simp] theorem State.exchanged_cr (tx : Frame) (delivered : Bool) : (s.exchanged tx delivered).cr = s.cr := rfl
@[simp] theorem State.exchanged_dr (tx : Frame) (delivered : Bool) : (s.exchanged tx delivered).dr = s.dr := rfl
@[simp] theorem State.exchanged_pend (tx : Frame) (delivered : Bool) : (s.exchanged tx delivered).pend = s.pend := rfl
@[simp] theorem State.exchanged_mode (tx : Frame) (delivered : Bool) : (s.exchanged tx delivered).mode = s.mode := rfl
@[simp] theorem State.exchanged_offers (tx : Frame) (delivered : Bool) : (s.exchanged tx delivered).offers = s.offers := rfl
@[simp] theorem State.exchanged_rst (tx : Frame) (delivered : Bool) : (s.exchanged tx delivered).rst = s.rst := rfl
@[simp] theorem State.exchanged_script (tx : Frame) (delivered : Bool) : (s.exchanged tx delivered).script = s.script.tail := rfl
@[simp] theorem State.exchanged_settle (tx : Frame) (delivered : Bool) : (s.exchanged tx delivered).settle = s.settle := rfl
@[simp] theorem State.exchanged_device (tx : Frame) (delivered : Bool) : (s.exchanged tx delivered).device = (if delivered then s.device.map (Device.take tx) else s.device) := rfl
@[simp] theorem State.exchanged_draws (tx : Frame) (delivered : Bool) : (s.exchanged tx delivered).draws = s.draws + 1 := rfl
@[simp] theorem State.exchanged_trace (tx : Frame) (delivered : Bool) : (s.exchanged tx delivered).trace = s.trace ++ [.sent tx] := rfl

@[simp] theorem State.waitTransport_phase : (s.waitTransport).phase = s.phase := rfl
@[simp] theorem State.waitTransport_upc : (s.waitTransport).upc = s.upc := rfl
@[simp] theorem State.waitTransport_cr : (s.waitTransport).cr = s.cr := rfl
@[simp] theorem State.waitTransport_dr : (s.waitTransport).dr = s.dr := rfl
@[simp] theorem State.waitTransport_pend : (s.waitTransport).pend = s.pend := rfl
@[simp] theorem State.waitTransport_mode : (s.waitTransport).mode = s.mode := rfl
@[simp] theorem State.waitTransport_offers : (s.waitTransport).offers = s.offers := rfl
@[simp] theorem State.waitTransport_rst : (s.waitTransport).rst = s.rst := rfl
@[simp] theorem State.waitTransport_script : (s.waitTransport).script = s.script.tail := rfl
@[simp] theorem State.waitTransport_settle : (s.waitTransport).settle = s.settle := rfl
@[simp] theorem State.waitTransport_device : (s.waitTransport).device = s.device := rfl
@[simp] theorem State.waitTransport_draws : (s.waitTransport).draws = s.draws := rfl
@[simp] theorem State.waitTransport_trace : (s.waitTransport).trace = s.trace := rfl

@[simp] theorem State.waitSettle_phase : (s.waitSettle).phase = s.phase := rfl
@[simp] theorem State.waitSettle_upc : (s.waitSettle).upc = s.upc := rfl
@[simp] theorem State.waitSettle_cr : (s.waitSettle).cr = s.cr := rfl
@[simp] theorem State.waitSettle_dr : (s.waitSettle).dr = s.dr := rfl
@[simp] theorem State.waitSettle_pend : (s.waitSettle).pend = s.pend := rfl
@[simp] theorem State.waitSettle_mode : (s.waitSettle).mode = s.mode := rfl
@[simp] theorem State.waitSettle_offers : (s.waitSettle).offers = s.offers := rfl
@[simp] theorem State.waitSettle_rst : (s.waitSettle).rst = s.rst := rfl
@[simp] theorem State.waitSettle_script : (s.waitSettle).script = s.script := rfl
@[simp] theorem State.waitSettle_settle : (s.waitSettle).settle = s.settle.tail := rfl
@[simp] theorem State.waitSettle_device : (s.waitSettle).device = s.device := rfl
@[simp] theorem State.waitSettle_draws : (s.waitSettle).draws = s.draws := rfl
@[simp] theorem State.waitSettle_trace : (s.waitSettle).trace = s.trace := rfl

@[simp] theorem State.slotTo_phase (tag : Pend) : (s.slotTo tag).phase = s.phase := rfl
@[simp] theorem State.slotTo_upc (tag : Pend) : (s.slotTo tag).upc = s.upc + 1 := rfl
@[simp] theorem State.slotTo_cr (tag : Pend) : (s.slotTo tag).cr = s.cr := rfl
@[simp] theorem State.slotTo_dr (tag : Pend) : (s.slotTo tag).dr = s.dr := rfl
@[simp] theorem State.slotTo_pend (tag : Pend) : (s.slotTo tag).pend = tag := rfl
@[simp] theorem State.slotTo_mode (tag : Pend) : (s.slotTo tag).mode = s.mode := rfl
@[simp] theorem State.slotTo_offers (tag : Pend) : (s.slotTo tag).offers = s.offers := rfl
@[simp] theorem State.slotTo_rst (tag : Pend) : (s.slotTo tag).rst = s.rst := rfl
@[simp] theorem State.slotTo_script (tag : Pend) : (s.slotTo tag).script = s.script := rfl
@[simp] theorem State.slotTo_settle (tag : Pend) : (s.slotTo tag).settle = s.settle := rfl
@[simp] theorem State.slotTo_device (tag : Pend) : (s.slotTo tag).device = s.device := rfl
@[simp] theorem State.slotTo_draws (tag : Pend) : (s.slotTo tag).draws = s.draws := rfl
@[simp] theorem State.slotTo_trace (tag : Pend) : (s.slotTo tag).trace = s.trace := rfl

@[simp] theorem State.countUpc_phase : (s.countUpc).phase = s.phase := rfl
@[simp] theorem State.countUpc_upc : (s.countUpc).upc = s.upc + 1 := rfl
@[simp] theorem State.countUpc_cr : (s.countUpc).cr = s.cr := rfl
@[simp] theorem State.countUpc_dr : (s.countUpc).dr = s.dr := rfl
@[simp] theorem State.countUpc_pend : (s.countUpc).pend = s.pend := rfl
@[simp] theorem State.countUpc_mode : (s.countUpc).mode = s.mode := rfl
@[simp] theorem State.countUpc_offers : (s.countUpc).offers = s.offers := rfl
@[simp] theorem State.countUpc_rst : (s.countUpc).rst = s.rst := rfl
@[simp] theorem State.countUpc_script : (s.countUpc).script = s.script := rfl
@[simp] theorem State.countUpc_settle : (s.countUpc).settle = s.settle := rfl
@[simp] theorem State.countUpc_device : (s.countUpc).device = s.device := rfl
@[simp] theorem State.countUpc_draws : (s.countUpc).draws = s.draws := rfl
@[simp] theorem State.countUpc_trace : (s.countUpc).trace = s.trace := rfl

@[simp] theorem State.driveLine_phase (level : Level) : (s.driveLine level).phase = s.phase := rfl
@[simp] theorem State.driveLine_upc (level : Level) : (s.driveLine level).upc = s.upc := rfl
@[simp] theorem State.driveLine_cr (level : Level) : (s.driveLine level).cr = s.cr := rfl
@[simp] theorem State.driveLine_dr (level : Level) : (s.driveLine level).dr = s.dr := rfl
@[simp] theorem State.driveLine_pend (level : Level) : (s.driveLine level).pend = s.pend := rfl
@[simp] theorem State.driveLine_mode (level : Level) : (s.driveLine level).mode = level := rfl
@[simp] theorem State.driveLine_offers (level : Level) : (s.driveLine level).offers = s.offers := rfl
@[simp] theorem State.driveLine_rst (level : Level) : (s.driveLine level).rst = s.rst := rfl
@[simp] theorem State.driveLine_script (level : Level) : (s.driveLine level).script = s.script := rfl
@[simp] theorem State.driveLine_settle (level : Level) : (s.driveLine level).settle = s.settle := rfl
@[simp] theorem State.driveLine_device (level : Level) : (s.driveLine level).device = s.device.map (Device.lineMoves s.mode level) := rfl
@[simp] theorem State.driveLine_draws (level : Level) : (s.driveLine level).draws = s.draws := rfl
@[simp] theorem State.driveLine_trace (level : Level) : (s.driveLine level).trace = s.trace := rfl

@[simp] theorem State.respond_phase (status : Status) (data : BitVec 16) : (s.respond status data).phase = s.phase := rfl
@[simp] theorem State.respond_upc (status : Status) (data : BitVec 16) : (s.respond status data).upc = s.upc := rfl
@[simp] theorem State.respond_cr (status : Status) (data : BitVec 16) : (s.respond status data).cr = s.cr := rfl
@[simp] theorem State.respond_dr (status : Status) (data : BitVec 16) : (s.respond status data).dr = s.dr := rfl
@[simp] theorem State.respond_pend (status : Status) (data : BitVec 16) : (s.respond status data).pend = s.pend := rfl
@[simp] theorem State.respond_mode (status : Status) (data : BitVec 16) : (s.respond status data).mode = s.mode := rfl
@[simp] theorem State.respond_offers (status : Status) (data : BitVec 16) : (s.respond status data).offers = s.offers := rfl
@[simp] theorem State.respond_rst (status : Status) (data : BitVec 16) : (s.respond status data).rst = s.rst := rfl
@[simp] theorem State.respond_script (status : Status) (data : BitVec 16) : (s.respond status data).script = s.script := rfl
@[simp] theorem State.respond_settle (status : Status) (data : BitVec 16) : (s.respond status data).settle = s.settle := rfl
@[simp] theorem State.respond_device (status : Status) (data : BitVec 16) : (s.respond status data).device = s.device := rfl
@[simp] theorem State.respond_draws (status : Status) (data : BitVec 16) : (s.respond status data).draws = s.draws + 1 := rfl
@[simp] theorem State.respond_trace (status : Status) (data : BitVec 16) : (s.respond status data).trace = s.trace ++ [.responded ⟨status.code, data, Config.freeFinfo s.draws⟩] := rfl

@[simp] theorem State.respondFault_phase (info : FaultInfo) : (s.respondFault info).phase = s.phase := rfl
@[simp] theorem State.respondFault_upc (info : FaultInfo) : (s.respondFault info).upc = s.upc := rfl
@[simp] theorem State.respondFault_cr (info : FaultInfo) : (s.respondFault info).cr = s.cr := rfl
@[simp] theorem State.respondFault_dr (info : FaultInfo) : (s.respondFault info).dr = s.dr := rfl
@[simp] theorem State.respondFault_pend (info : FaultInfo) : (s.respondFault info).pend = s.pend := rfl
@[simp] theorem State.respondFault_mode (info : FaultInfo) : (s.respondFault info).mode = s.mode := rfl
@[simp] theorem State.respondFault_offers (info : FaultInfo) : (s.respondFault info).offers = s.offers := rfl
@[simp] theorem State.respondFault_rst (info : FaultInfo) : (s.respondFault info).rst = s.rst := rfl
@[simp] theorem State.respondFault_script (info : FaultInfo) : (s.respondFault info).script = s.script := rfl
@[simp] theorem State.respondFault_settle (info : FaultInfo) : (s.respondFault info).settle = s.settle := rfl
@[simp] theorem State.respondFault_device (info : FaultInfo) : (s.respondFault info).device = s.device := rfl
@[simp] theorem State.respondFault_draws (info : FaultInfo) : (s.respondFault info).draws = s.draws := rfl
@[simp] theorem State.respondFault_trace (info : FaultInfo) : (s.respondFault info).trace = s.trace ++ [.responded ⟨Status.transportFault.code, 0x0000#16, info⟩] := rfl

@[simp] theorem State.accept_phase (w : CmdWord) : (s.accept w).phase = .run := rfl
@[simp] theorem State.accept_upc (w : CmdWord) : (s.accept w).upc = 0 := rfl
@[simp] theorem State.accept_cr (w : CmdWord) : (s.accept w).cr = w := rfl
@[simp] theorem State.accept_dr (w : CmdWord) : (s.accept w).dr = s.dr := rfl
@[simp] theorem State.accept_pend (w : CmdWord) : (s.accept w).pend = s.pend := rfl
@[simp] theorem State.accept_mode (w : CmdWord) : (s.accept w).mode = s.mode := rfl
@[simp] theorem State.accept_offers (w : CmdWord) : (s.accept w).offers = s.offers := rfl
@[simp] theorem State.accept_rst (w : CmdWord) : (s.accept w).rst = s.rst := rfl
@[simp] theorem State.accept_script (w : CmdWord) : (s.accept w).script = s.script := rfl
@[simp] theorem State.accept_settle (w : CmdWord) : (s.accept w).settle = s.settle := rfl
@[simp] theorem State.accept_device (w : CmdWord) : (s.accept w).device = s.device := rfl
@[simp] theorem State.accept_draws (w : CmdWord) : (s.accept w).draws = s.draws := rfl
@[simp] theorem State.accept_trace (w : CmdWord) : (s.accept w).trace = s.trace ++ [.accepted w] := rfl

@[simp] theorem State.toIdle_phase : (s.toIdle).phase = .idle := rfl
@[simp] theorem State.toIdle_upc : (s.toIdle).upc = 0 := rfl
@[simp] theorem State.toIdle_cr : (s.toIdle).cr = s.cr := rfl
@[simp] theorem State.toIdle_dr : (s.toIdle).dr = s.dr := rfl
@[simp] theorem State.toIdle_pend : (s.toIdle).pend = s.pend := rfl
@[simp] theorem State.toIdle_mode : (s.toIdle).mode = s.mode := rfl
@[simp] theorem State.toIdle_offers : (s.toIdle).offers = s.offers := rfl
@[simp] theorem State.toIdle_rst : (s.toIdle).rst = s.rst := rfl
@[simp] theorem State.toIdle_script : (s.toIdle).script = s.script := rfl
@[simp] theorem State.toIdle_settle : (s.toIdle).settle = s.settle := rfl
@[simp] theorem State.toIdle_device : (s.toIdle).device = s.device := rfl
@[simp] theorem State.toIdle_draws : (s.toIdle).draws = s.draws := rfl
@[simp] theorem State.toIdle_trace : (s.toIdle).trace = s.trace := rfl

@[simp] theorem State.complete_phase (data : BitVec 16) : (s.complete data).phase = .idle := rfl
@[simp] theorem State.complete_upc (data : BitVec 16) : (s.complete data).upc = 0 := rfl
@[simp] theorem State.complete_cr (data : BitVec 16) : (s.complete data).cr = s.cr := rfl
@[simp] theorem State.complete_dr (data : BitVec 16) : (s.complete data).dr = s.dr := rfl
@[simp] theorem State.complete_pend (data : BitVec 16) : (s.complete data).pend = s.pend := rfl
@[simp] theorem State.complete_mode (data : BitVec 16) : (s.complete data).mode = s.mode := rfl
@[simp] theorem State.complete_offers (data : BitVec 16) : (s.complete data).offers = s.offers := rfl
@[simp] theorem State.complete_rst (data : BitVec 16) : (s.complete data).rst = s.rst := rfl
@[simp] theorem State.complete_script (data : BitVec 16) : (s.complete data).script = s.script := rfl
@[simp] theorem State.complete_settle (data : BitVec 16) : (s.complete data).settle = s.settle := rfl
@[simp] theorem State.complete_device (data : BitVec 16) : (s.complete data).device = s.device := rfl
@[simp] theorem State.complete_draws (data : BitVec 16) : (s.complete data).draws = s.draws + 1 := rfl
@[simp] theorem State.complete_trace (data : BitVec 16) : (s.complete data).trace = s.trace ++ [.responded ⟨Status.ok.code, data, Config.freeFinfo s.draws⟩] := rfl

@[simp] theorem State.applyReset_phase : (s.applyReset).phase = .idle := rfl
@[simp] theorem State.applyReset_upc : (s.applyReset).upc = 0 := rfl
@[simp] theorem State.applyReset_cr : (s.applyReset).cr = Config.freeCr s.draws := rfl
@[simp] theorem State.applyReset_dr : (s.applyReset).dr = Config.freeDr s.draws := rfl
@[simp] theorem State.applyReset_pend : (s.applyReset).pend = .none := rfl
@[simp] theorem State.applyReset_mode : (s.applyReset).mode = 0 := rfl
@[simp] theorem State.applyReset_offers : (s.applyReset).offers = s.offers := rfl
@[simp] theorem State.applyReset_rst : (s.applyReset).rst = s.rst := rfl
@[simp] theorem State.applyReset_script : (s.applyReset).script = s.script := rfl
@[simp] theorem State.applyReset_settle : (s.applyReset).settle = s.settle := rfl
@[simp] theorem State.applyReset_device : (s.applyReset).device = s.device.map (Device.lineMoves s.mode 0) := rfl
@[simp] theorem State.applyReset_draws : (s.applyReset).draws = s.draws + 1 := rfl
@[simp] theorem State.applyReset_trace : (s.applyReset).trace = s.trace ++ [.resetDone s.busy] := rfl

@[simp] theorem State.capture_phase (cap : Capture) (rx : Frame) : (s.capture cap rx).phase = s.phase := by cases cap <;> rfl
@[simp] theorem State.capture_upc (cap : Capture) (rx : Frame) : (s.capture cap rx).upc = s.upc := by cases cap <;> rfl
@[simp] theorem State.capture_cr (cap : Capture) (rx : Frame) : (s.capture cap rx).cr = s.cr := by cases cap <;> rfl
@[simp] theorem State.capture_dr (cap : Capture) (rx : Frame) : (s.capture cap rx).dr = (match cap with | .drop => s.dr | .data8 => zext16 (dec rx) | .data16 => decDiag rx) := by cases cap <;> rfl
@[simp] theorem State.capture_pend (cap : Capture) (rx : Frame) : (s.capture cap rx).pend = s.pend := by cases cap <;> rfl
@[simp] theorem State.capture_mode (cap : Capture) (rx : Frame) : (s.capture cap rx).mode = s.mode := by cases cap <;> rfl
@[simp] theorem State.capture_offers (cap : Capture) (rx : Frame) : (s.capture cap rx).offers = s.offers := by cases cap <;> rfl
@[simp] theorem State.capture_rst (cap : Capture) (rx : Frame) : (s.capture cap rx).rst = s.rst := by cases cap <;> rfl
@[simp] theorem State.capture_script (cap : Capture) (rx : Frame) : (s.capture cap rx).script = s.script := by cases cap <;> rfl
@[simp] theorem State.capture_settle (cap : Capture) (rx : Frame) : (s.capture cap rx).settle = s.settle := by cases cap <;> rfl
@[simp] theorem State.capture_device (cap : Capture) (rx : Frame) : (s.capture cap rx).device = s.device := by cases cap <;> rfl
@[simp] theorem State.capture_draws (cap : Capture) (rx : Frame) : (s.capture cap rx).draws = s.draws := by cases cap <;> rfl
@[simp] theorem State.capture_trace (cap : Capture) (rx : Frame) : (s.capture cap rx).trace = s.trace := by cases cap <;> rfl

@[simp] theorem State.raise_illegal_phase : (s.raise .illegalCommand).phase = s.phase := rfl
@[simp] theorem State.raise_illegal_upc : (s.raise .illegalCommand).upc = s.upc := rfl
@[simp] theorem State.raise_illegal_cr : (s.raise .illegalCommand).cr = s.cr := rfl
@[simp] theorem State.raise_illegal_dr : (s.raise .illegalCommand).dr = s.dr := rfl
@[simp] theorem State.raise_illegal_pend : (s.raise .illegalCommand).pend = s.pend := rfl
@[simp] theorem State.raise_illegal_mode : (s.raise .illegalCommand).mode = s.mode := rfl
@[simp] theorem State.raise_illegal_offers : (s.raise .illegalCommand).offers = s.offers := rfl
@[simp] theorem State.raise_illegal_rst : (s.raise .illegalCommand).rst = s.rst := rfl
@[simp] theorem State.raise_illegal_script : (s.raise .illegalCommand).script = s.script := rfl
@[simp] theorem State.raise_illegal_settle : (s.raise .illegalCommand).settle = s.settle := rfl
@[simp] theorem State.raise_illegal_device : (s.raise .illegalCommand).device = s.device := rfl
@[simp] theorem State.raise_illegal_draws : (s.raise .illegalCommand).draws = s.draws + 1 := rfl
@[simp] theorem State.raise_illegal_trace : (s.raise .illegalCommand).trace = s.trace ++ [.responded ⟨Status.illegalCmd.code, 0x0000#16, Config.freeFinfo s.draws⟩] := rfl

@[simp] theorem State.raise_fault_phase (info : FaultInfo) : (s.raise (.transportFault info)).phase = .idle := rfl
@[simp] theorem State.raise_fault_upc (info : FaultInfo) : (s.raise (.transportFault info)).upc = 0 := rfl
@[simp] theorem State.raise_fault_cr (info : FaultInfo) : (s.raise (.transportFault info)).cr = s.cr := rfl
@[simp] theorem State.raise_fault_dr (info : FaultInfo) : (s.raise (.transportFault info)).dr = s.dr := rfl
@[simp] theorem State.raise_fault_pend (info : FaultInfo) : (s.raise (.transportFault info)).pend = .none := rfl
@[simp] theorem State.raise_fault_mode (info : FaultInfo) : (s.raise (.transportFault info)).mode = s.mode := rfl
@[simp] theorem State.raise_fault_offers (info : FaultInfo) : (s.raise (.transportFault info)).offers = s.offers := rfl
@[simp] theorem State.raise_fault_rst (info : FaultInfo) : (s.raise (.transportFault info)).rst = s.rst := rfl
@[simp] theorem State.raise_fault_script (info : FaultInfo) : (s.raise (.transportFault info)).script = s.script := rfl
@[simp] theorem State.raise_fault_settle (info : FaultInfo) : (s.raise (.transportFault info)).settle = s.settle := rfl
@[simp] theorem State.raise_fault_device (info : FaultInfo) : (s.raise (.transportFault info)).device = s.device := rfl
@[simp] theorem State.raise_fault_draws (info : FaultInfo) : (s.raise (.transportFault info)).draws = s.draws := rfl
@[simp] theorem State.raise_fault_trace (info : FaultInfo) : (s.raise (.transportFault info)).trace = s.trace ++ [.responded ⟨Status.transportFault.code, 0x0000#16, info⟩] := rfl

end Sys2Proof.Machine
end

