-- ==== Sys2Proof/Laws/FarEnd.lean ====
section
/-! SUPPORT. An exchange with the assumed device alone at the far end: what it returns, and that the device stays there,
awake and quiet. -/

namespace Sys2Proof.Machine

variable (d : Device) (s : State)

theorem Device.take_quiet (tx : Frame) (awake : d.asleep = false) (quiet : d.changes = []) :
    (d.take tx).asleep = false ∧ (d.take tx).changes = [] := by
  simp only [Device.take, d.ownChange_none quiet, Device.takeWrite, Device.setLatches]
  split
  · split
    · simp [awake, quiet]
    · split <;> (try split) <;> simp [awake, quiet]
  · split <;> simp [awake, quiet]

/-- With the device alone at the far end an exchange returns what the device shifts out, and the device takes the
frame. -/
theorem xfer_farEnd (h : s.FarEndIs d) (tx : Frame) (cap : Capture) (tag : Pend) :
    xfer tx cap tag s =
        ((s.exchanged tx true).capture cap (d.shiftOut (Config.freeFrame s.draws))).slotTo tag ∧
      (xfer tx cap tag s).FarEndIs (d.take tx) := by
  obtain ⟨noScript, isDevice, awake, quiet⟩ := h
  have returned : xfer tx cap tag s =
      ((s.exchanged tx true).capture cap (d.shiftOut (Config.freeFrame s.draws))).slotTo tag := by
    simp [xfer, State.answer, State.farFrame, noScript, isDevice]
  refine ⟨returned, ?_⟩
  obtain ⟨awake', quiet'⟩ := d.take_quiet tx awake quiet
  exact ⟨by rw [returned]; simp [noScript], by rw [returned]; simp [isDevice], awake', quiet'⟩

/-- An awake device is not moved by the line going high. -/
theorem Device.lineMoves_high (old : Level) (awake : d.asleep = false) : d.lineMoves old 1 = d := by
  simp [Device.lineMoves, awake]

/-- The steps of a command, one at a time. -/
theorem execRepeat_succ (i : Instr) (n : Nat) (s t : State) (h : exec i s = .next t) :
    execRepeat i (n + 1) s = execRepeat i n t := by
  simp [execRepeat, h]

end Sys2Proof.Machine
end

