-- ==== Sys2Proof/Laws/Ops.lean ====
section
/-! SUPPORT. What each shared operation can do, said once: the inversion lemmas a proof cites in place of unfolding. -/

namespace Sys2Proof.Machine

variable (s t : State)

/-- The endings of an exchange (R90, R133), and the two ways it does not end (R148). -/
theorem xfer_cases (tx : Frame) (cap : Capture) (tag : Pend) :
    (∃ w, s.answer = .rx w ∧ xfer tx cap tag s = ((s.exchanged tx true).capture cap w).slotTo tag) ∨
    (∃ info delivered, s.answer = .fault info delivered ∧
      xfer tx cap tag s = (s.exchanged tx delivered).raise (.transportFault info)) ∨
    (s.answer = .pending ∧ xfer tx cap tag s = s.waitTransport) ∨
    (s.answer = .never ∧ xfer tx cap tag s = s) := by
  unfold xfer
  cases h : s.answer with
  | rx w => exact .inl ⟨w, rfl, rfl⟩
  | fault info delivered => exact .inr (.inl ⟨info, delivered, rfl, rfl⟩)
  | pending => exact .inr (.inr (.inl ⟨rfl, rfl⟩))
  | never => exact .inr (.inr (.inr ⟨rfl, rfl⟩))

/-- A `WAIT` goes on, hangs or ends (R90, R143, R148). -/
theorem waitOp_cases :
    (s.settle.head? = some .low ∧ waitOp s = s.waitSettle) ∨
    (s.settle.head? = some .never ∧ waitOp s = s) ∨
    ((s.settle = [] ∨ s.settle.head? = some .high) ∧ waitOp s = (s.waitSettle.log .settled).countUpc) := by
  unfold waitOp
  split <;> simp [*]

/-- An answer that is not the default one stands at the head of `script`. -/
theorem State.answer_cases : (∃ rest, s.script = s.answer :: rest) ∨ (s.script = [] ∧ s.answer = .rx s.farFrame) := by
  unfold State.answer
  cases s.script <;> simp

/-- The steps of a command (R91). -/
theorem stepCommand_cases (w : CmdWord) (prog : List MicroOp) (result : BitVec 16)
    (h : stepCommand w prog result s = .next t) :
    (s.phase = .idle ∧ t = s.accept w) ∨
    (s.phase = .run ∧ ∃ op, prog[s.upc.toNat]? = some op ∧ t = perform op s) ∨
    (s.phase = .run ∧ s.upc.toNat = prog.length ∧ t = s.complete result) := by
  unfold stepCommand at h
  split at h
  · rename_i hp; cases h; exact .inl ⟨hp, rfl⟩
  · rename_i hp
    split at h
    · rename_i op ho; cases h; exact .inr (.inl ⟨hp, op, ho, rfl⟩)
    · split at h
      · rename_i hl; cases h; exact .inr (.inr ⟨hp, hl, rfl⟩)
      · cases h

/-- The word CR holds while the command `i` runs. -/
def wordOf (i : Instr) : CmdWord :=
  match encode i with
  | .command w => w
  | .frame _ => 0

/-- The data of the response of `i` at DR = `dr` (R91). -/
def resultOf (i : Instr) (dr : BitVec 16) : BitVec 16 :=
  match i with
  | .rdreg _ _ => dr
  | .rddiag _ _ => dr
  | _ => 0x0000#16

/-- Every command's meaning is the sequencer's step over its own micro-program. -/
theorem exec_command (i : Instr) (hc : i.isCommand = true) :
    exec i s = stepCommand (wordOf i) (progOf i s.dr) (resultOf i s.dr) s := by
  cases i <;> first | rfl | simp [Instr.isCommand] at hc

/-- What the op decode answers is a command. -/
theorem decodeCommand_isCommand (w : CmdWord) (i : Instr) (h : decodeCommand w = .ok i) : i.isCommand = true := by
  unfold decodeCommand at h
  split at h <;> cases h <;> rfl

/-- The word in CR of a command that decoded from `w` is `w`. -/
theorem wordOf_decodeCommand (w : CmdWord) (i : Instr) (h : decodeCommand w = .ok i) : wordOf i = w := by
  have fields := commandWord_fields w
  have op : ∀ n : Nat, (cmdOp w).toNat = n → cmdOp w = BitVec.ofNat 4 n := fun n hn => by rw [← hn]; simp
  unfold decodeCommand at h
  split at h <;> rename_i hn <;> (try cases h) <;>
    (have := op _ hn; simp only [wordOf, encode]; rw [← this, fields])

/-- Fetch with `rst` low, case by case (R46, R91). -/
theorem State.fetchCommand_cases :
    (s.phase = .run ∧ ∃ i, decodeCommand s.cr = .ok i ∧ s.fetchCommand = .instr i s) ∨
    (s.phase = .run ∧ (∃ e, decodeCommand s.cr = .error e) ∧ s.fetchCommand = .corrupt) ∨
    (s.phase = .idle ∧ s.offers = [] ∧ s.fetchCommand = .nothing s) ∨
    (s.phase = .idle ∧ ∃ w rest i, s.offers = w :: rest ∧ decodeCommand w = .ok i ∧
      s.fetchCommand = .instr i { s with offers := rest }) ∨
    (s.phase = .idle ∧ ∃ w rest e, s.offers = w :: rest ∧ decodeCommand w = .error e ∧
      s.fetchCommand = .illegal { s with offers := rest }) := by
  unfold State.fetchCommand
  cases hp : s.phase with
  | run => cases hd : decodeCommand s.cr <;> simp
  | idle =>
    cases ho : s.offers with
    | nil => simp
    | cons w rest => cases hd : decodeCommand w <;> simp [hd]

/-- Fetch, by the level of `rst` (R150). -/
theorem State.fetch_cases :
    (∃ delivered rest, s.rst = .high delivered :: rest ∧
      s.fetch = .reset (({ s with rst := rest } : State).cutShort delivered)) ∨
    ((∀ delivered rest, s.rst ≠ .high delivered :: rest) ∧
      s.fetch = ({ s with rst := s.rst.tail } : State).fetchCommand) := by
  unfold State.fetch
  cases hr : s.rst with
  | nil =>
    have same : ({ s with rst := s.rst.tail } : State) = s := by cases s; simp_all
    exact .inr ⟨by simp, by rw [← hr, same]; simp [hr]⟩
  | cons level rest => cases level <;> simp

/-- All a step that answers a next state can have done: reset; with `rst` low waiting for a word, a refusal, Accept, one
micro-operation, or Complete (R91, R134, R150). -/
theorem step_inversion (h : step s = .next t) :
    (∃ delivered rest, s.rst = .high delivered :: rest ∧
      t = (({ s with rst := rest } : State).cutShort delivered).applyReset) ∨
    ((∀ delivered rest, s.rst ≠ .high delivered :: rest) ∧
      ((s.phase = .idle ∧ s.offers = [] ∧ t = { s with rst := s.rst.tail }) ∨
       (s.phase = .idle ∧ ∃ w rest e, s.offers = w :: rest ∧ decodeCommand w = .error e ∧
          t = ({ s with rst := s.rst.tail, offers := rest } : State).raise .illegalCommand) ∨
       (s.phase = .idle ∧ ∃ w rest i, s.offers = w :: rest ∧ decodeCommand w = .ok i ∧
          t = ({ s with rst := s.rst.tail, offers := rest } : State).accept w) ∨
       (s.phase = .run ∧ ∃ i op, decodeCommand s.cr = .ok i ∧ (progOf i s.dr)[s.upc.toNat]? = some op ∧
          t = perform op { s with rst := s.rst.tail }) ∨
       (s.phase = .run ∧ ∃ i, decodeCommand s.cr = .ok i ∧ s.upc.toNat = (progOf i s.dr).length ∧
          t = ({ s with rst := s.rst.tail } : State).complete (resultOf i s.dr)))) := by
  unfold step at h
  rcases s.fetch_cases with ⟨delivered, rest, hr, hf⟩ | ⟨hlow, hf⟩
  · rw [hf] at h; cases h; exact .inl ⟨delivered, rest, hr, rfl⟩
  · refine .inr ⟨hlow, ?_⟩
    rw [hf] at h
    rcases ({ s with rst := s.rst.tail } : State).fetchCommand_cases with
      ⟨hp, i, hd, he⟩ | ⟨_, _, he⟩ | ⟨hp, ho, he⟩ | ⟨hp, w, rest, i, ho, hd, he⟩ | ⟨hp, w, rest, e, ho, hd, he⟩
    all_goals rw [he] at h; dsimp only at h
    · rw [exec_command _ _ (decodeCommand_isCommand _ _ hd)] at h
      rcases stepCommand_cases _ _ _ _ _ h with ⟨hi, _⟩ | ⟨_, op, hop, ht⟩ | ⟨_, hl, ht⟩
      · exact absurd (hp.symm.trans hi) (by decide)
      · exact .inr (.inr (.inr (.inl ⟨hp, i, op, hd, hop, ht⟩)))
      · exact .inr (.inr (.inr (.inr ⟨hp, i, hd, hl, ht⟩)))
    · cases h
    · cases h; exact .inl ⟨hp, ho, rfl⟩
    · rw [exec_command _ _ (decodeCommand_isCommand _ _ hd)] at h
      rcases stepCommand_cases _ _ _ _ _ h with ⟨_, ht⟩ | ⟨hr, _⟩ | ⟨hr, _⟩
      · rw [wordOf_decodeCommand _ _ hd] at ht
        exact .inr (.inr (.inl ⟨hp, w, rest, i, ho, hd, ht⟩))
      · exact absurd (hp.symm.trans hr) (by decide)
      · exact absurd (hp.symm.trans hr) (by decide)
    · cases h; exact .inr (.inl ⟨hp, w, rest, e, ho, hd, rfl⟩)

end Sys2Proof.Machine
end

