-- ==== Sys2Proof/Laws/PerInstr.lean ====
section
/-! SUPPORT. Per-instruction laws. Family RowBits: what `encode` gives lies in the instruction's row of
spec/opcode_table.json. -/

namespace Sys2Proof.Laws.RowBits

/-- The fixed bits of the instruction's row: the op of a command word, the type bits [15:14] of a frame. DIAGREQ's row
is the open parameter itself. -/
def Statement : Instr → Prop
  | .write a v => ∃ t, encode (.write a v) = .frame t ∧ t.extractLsb' 14 2 = 0b10#2
  | .readreq a => ∃ t, encode (.readreq a) = .frame t ∧ t.extractLsb' 14 2 = 0b01#2 ∧ t.extractLsb' 0 8 = 0x02#8
  | .nop => encode .nop = .frame 0x0000#16
  | .diagreq => encode .diagreq = .frame Config.diagReqFrame
  | .rdreg a d => ∃ w, encode (.rdreg a d) = .command w ∧ cmdOp w = 0x1#4
  | .wrreg a d => ∃ w, encode (.wrreg a d) = .command w ∧ cmdOp w = 0x2#4
  | .rddiag a d => ∃ w, encode (.rddiag a d) = .command w ∧ cmdOp w = 0x3#4
  | .setch a d => ∃ w, encode (.setch a d) = .command w ∧ cmdOp w = 0x4#4
  | .clrerr a d => ∃ w, encode (.clrerr a d) = .command w ∧ cmdOp w = 0x5#4
  | .clrall a d => ∃ w, encode (.clrall a d) = .command w ∧ cmdOp w = 0x6#4
  | .sleep a d => ∃ w, encode (.sleep a d) = .command w ∧ cmdOp w = 0x7#4
  | .active a d => ∃ w, encode (.active a d) = .command w ∧ cmdOp w = 0x8#4
  | .init a d => ∃ w, encode (.init a d) = .command w ∧ cmdOp w = 0x9#4

theorem write (a v : Byte) : Statement (.write a v) := by
  refine ⟨_, rfl, ?_⟩
  ext i hi
  rw [← BitVec.getLsbD_eq_getElem, ← BitVec.getLsbD_eq_getElem, BitVec.getLsbD_extractLsb']
  show (decide (i < 2) && BitVec.getLsbD (w := 2 + 6 + 8) (0b10#2 ++ a.extractLsb' 0 6 ++ v) (14 + i)) = _
  rw [BitVec.getLsbD_append, if_neg (by omega), BitVec.getLsbD_append, if_neg (by omega), decide_eq_true hi,
    Bool.true_and]
  congr 1; omega

theorem readreq (a : Byte) : Statement (.readreq a) := by
  refine ⟨_, rfl, ?_, ?_⟩
  · ext i hi
    rw [← BitVec.getLsbD_eq_getElem, ← BitVec.getLsbD_eq_getElem, BitVec.getLsbD_extractLsb']
    show (decide (i < 2) &&
      BitVec.getLsbD (w := 2 + 6 + 6 + 2) (0b01#2 ++ a.extractLsb' 0 6 ++ 0b000000#6 ++ 0b10#2) (14 + i)) = _
    rw [BitVec.getLsbD_append, if_neg (by omega), BitVec.getLsbD_append, if_neg (by omega),
      BitVec.getLsbD_append, if_neg (by omega), decide_eq_true hi, Bool.true_and]
    congr 1; omega
  · ext i hi
    rw [← BitVec.getLsbD_eq_getElem, ← BitVec.getLsbD_eq_getElem, BitVec.getLsbD_extractLsb']
    show (decide (i < 8) &&
      BitVec.getLsbD (w := 2 + 6 + 6 + 2) (0b01#2 ++ a.extractLsb' 0 6 ++ 0b000000#6 ++ 0b10#2) (0 + i)) = _
    rw [BitVec.getLsbD_append, BitVec.getLsbD_append]
    interval_cases i <;> rfl

theorem nop : Statement .nop := rfl
theorem diagreq : Statement .diagreq := rfl
theorem rdreg (a d : Byte) : Statement (.rdreg a d) := ⟨_, rfl, cmdOp_commandWord _ _ _⟩
theorem wrreg (a d : Byte) : Statement (.wrreg a d) := ⟨_, rfl, cmdOp_commandWord _ _ _⟩
theorem rddiag (a d : Byte) : Statement (.rddiag a d) := ⟨_, rfl, cmdOp_commandWord _ _ _⟩
theorem setch (a d : Byte) : Statement (.setch a d) := ⟨_, rfl, cmdOp_commandWord _ _ _⟩
theorem clrerr (a d : Byte) : Statement (.clrerr a d) := ⟨_, rfl, cmdOp_commandWord _ _ _⟩
theorem clrall (a d : Byte) : Statement (.clrall a d) := ⟨_, rfl, cmdOp_commandWord _ _ _⟩
theorem sleep (a d : Byte) : Statement (.sleep a d) := ⟨_, rfl, cmdOp_commandWord _ _ _⟩
theorem active (a d : Byte) : Statement (.active a d) := ⟨_, rfl, cmdOp_commandWord _ _ _⟩
theorem init (a d : Byte) : Statement (.init a d) := ⟨_, rfl, cmdOp_commandWord _ _ _⟩

end Sys2Proof.Laws.RowBits
end

