-- ==== Sys2Proof/Laws/Program.lean ====
section
/-! SUPPORT. What all micro-programs share: their length and their tags do not depend on DR, none is longer than 12,
each ends drained, and PEND follows the last exchange. -/

namespace Sys2Proof.Machine

/-- A property of all micro-programs, from the primitive sequences they are made of (R90). -/
theorem progOf_cases (P : List MicroOp → Prop) (i : Instr) (dr : BitVec 16) (nil : P [])
    (write : ∀ a v, P (writeRegSeq a v)) (read : ∀ a, P (readRegSeq a)) (diag : P readDiagSeq)
    (modify : ∀ a b v : Byte, P (readRegSeq a ++ writeRegSeq b v)) (sleep : P sleepProg)
    (active : ∀ dr, P (activeProg dr)) (init : P initProg) : P (progOf i dr) := by
  cases i <;> simp only [progOf, rdregProg, wrregProg, rddiagProg, setchProg, clrerrProg, clrallProg] <;>
    (try split) <;> simp_all

/-- A micro-operation without its frame: which of the three it is, its capture, its tag. -/
def MicroOp.skeleton : MicroOp → Nat × Capture × Pend
  | .xfer _ cap tag => (0, cap, tag)
  | .pin level => (1 + level.toNat, .drop, .none)
  | .wait => (3, .drop, .none)

/-- Only the frames of a micro-program may depend on DR (R90). -/
theorem progOf_skeleton (i : Instr) (dr dr' : BitVec 16) :
    (progOf i dr).map MicroOp.skeleton = (progOf i dr').map MicroOp.skeleton := by
  cases i <;> simp only [progOf, setchProg, activeProg] <;> (try split) <;> rfl

theorem progOf_length (i : Instr) (dr dr' : BitVec 16) : (progOf i dr).length = (progOf i dr').length := by
  simpa using congrArg List.length (progOf_skeleton i dr dr')

theorem progOf_length_le (i : Instr) (dr : BitVec 16) : (progOf i dr).length ≤ 12 := by
  refine progOf_cases (fun p => p.length ≤ 12) i dr ?_ ?_ ?_ ?_ ?_ ?_ ?_ ?_ <;> intros <;>
    simp [writeRegSeq, readRegSeq, readDiagSeq, sleepProg, activeProg, initProg]

/-- Every micro-program ends drained (R98). -/
theorem pendAfter_progOf (i : Instr) (dr : BitVec 16) : pendAfter (progOf i dr) = .none := by
  refine progOf_cases (fun p => pendAfter p = .none) i dr ?_ ?_ ?_ ?_ ?_ ?_ ?_ ?_ <;> intros <;> rfl

/-- PEND after one more micro-operation. -/
def MicroOp.tagFrom (p : Pend) : MicroOp → Pend
  | .xfer _ _ tag => tag
  | .pin _ => p
  | .wait => p

theorem pendAfter_append (ops : List MicroOp) (op : MicroOp) :
    pendAfter (ops ++ [op]) = op.tagFrom (pendAfter ops) := by
  simp only [pendAfter, List.foldl_append, List.foldl_cons, List.foldl_nil]
  cases op <;> rfl

theorem pendAfter_take_succ (ops : List MicroOp) (k : Nat) (op : MicroOp) (h : ops[k]? = some op) :
    pendAfter (ops.take (k + 1)) = op.tagFrom (pendAfter (ops.take k)) := by
  rw [List.take_add_one, h]; exact pendAfter_append _ _

/-- PEND along a micro-program does not depend on DR. -/
theorem pendAfter_progOf_take (i : Instr) (k : Nat) (dr dr' : BitVec 16) :
    pendAfter ((progOf i dr).take k) = pendAfter ((progOf i dr').take k) := by
  have general : ∀ l : List MicroOp, pendAfter l =
      (l.map MicroOp.skeleton).foldl (fun p x => if x.1 = 0 then x.2.2 else p) .none := by
    intro l
    unfold pendAfter
    generalize Pend.none = p
    induction l generalizing p with
    | nil => rfl
    | cons op l ih =>
      simp only [List.foldl_cons, List.map_cons]
      rw [ih]; congr 1; cases op <;> simp [MicroOp.skeleton]
  rw [general, general, List.map_take, List.map_take, progOf_skeleton i dr dr']

end Sys2Proof.Machine
end

