-- ==== Sys2Proof/Machine/Assembler.lean ====
section
/-! DEFINITION. The assembler of 30_encoding.md R68: one command per line, a mnemonic and comma-separated operands, a
comment from `;` on. A line is a list of characters (log entry 21). -/

namespace Sys2Proof.Machine

/-- The characters before the first `c`, and those after it. -/
def cutAt (c : Char) : List Char → List Char × List Char
  | [] => ([], [])
  | x :: rest => if x = c then ([], rest) else (x :: (cutAt c rest).1, (cutAt c rest).2)

/-- The parts of a text between its commas. -/
def splitCommas : List Char → List (List Char)
  | [] => [[]]
  | x :: rest =>
    if x = ',' then [] :: splitCommas rest
    else match splitCommas rest with
      | [] => [[x]]
      | part :: parts => (x :: part) :: parts

/-- A text without the spaces at its ends. -/
def trimSpaces (cs : List Char) : List Char :=
  ((cs.dropWhile (· == ' ')).reverse.dropWhile (· == ' ')).reverse

/-- The value of one digit. -/
def digitValue (c : Char) : Option Nat :=
  let n := c.toNat
  if 48 ≤ n ∧ n ≤ 57 then some (n - 48)
  else if 65 ≤ n ∧ n ≤ 70 then some (n - 55)
  else if 97 ≤ n ∧ n ≤ 102 then some (n - 87)
  else none

/-- Digits in a base, the number read so far in front. -/
def digitsFrom (base acc : Nat) : List Char → Option Nat
  | [] => some acc
  | c :: rest =>
    match digitValue c with
    | some v => if v < base then digitsFrom base (acc * base + v) rest else none
    | none => none

/-- A number, decimal or `0x` hexadecimal. -/
def parseNumber : List Char → Option Nat
  | '0' :: 'x' :: c :: rest => digitsFrom 16 0 (c :: rest)
  | c :: rest => digitsFrom 10 0 (c :: rest)
  | [] => none

/-- A number that fits eight bits. -/
def parseByte (cs : List Char) : Option Byte :=
  match parseNumber cs with
  | some n => if n < 256 then some (BitVec.ofNat 8 n) else none
  | none => none

/-- A register operand: a name of R20 or a number. -/
def parseRegister (cs : List Char) : Option Byte :=
  match cs with
  | ['O', 'U', 'T'] => some RegName.out.operand
  | ['M', 'A', 'P', 'I', 'N', '0'] => some RegName.mapin0.operand
  | ['M', 'A', 'P', 'I', 'N', '1'] => some RegName.mapin1.operand
  | ['I', 'N', 'S', 'T'] => some RegName.inst.operand
  | ['D', 'I', 'A', 'G', '_', 'I', 'O', 'L'] => some RegName.diagIol.operand
  | ['D', 'I', 'A', 'G', '_', 'O', 'S', 'M'] => some RegName.diagOsm.operand
  | ['H', 'W', 'C', 'R'] => some RegName.hwcr.operand
  | ['H', 'W', 'C', 'R', '_', 'O', 'C', 'L'] => some RegName.hwcrOcl.operand
  | _ => parseByte cs

/-- SETCH's second operand: `on` is 1 and `off` is 0. -/
def parseOn (cs : List Char) : Option Byte :=
  match cs with
  | ['o', 'n'] => some (onField true)
  | ['o', 'f', 'f'] => some (onField false)
  | _ =>
    match parseByte cs with
    | some b => if b = 0 ∨ b = 1 then some b else none
    | none => none

/-- The command a mnemonic and its operands stand for. -/
def assembleCommand (mnemonic : List Char) (operands : List (List Char)) : Option Instr :=
  match mnemonic, operands with
  | ['R', 'D', 'R', 'E', 'G'], [r] => (parseRegister r).map (Instr.rdreg · 0)
  | ['W', 'R', 'R', 'E', 'G'], [r, v] => (parseRegister r).bind fun a => (parseByte v).map (Instr.wrreg a ·)
  | ['R', 'D', 'D', 'I', 'A', 'G'], [] => some (.rddiag 0 0)
  | ['S', 'E', 'T', 'C', 'H'], [i, o] => (parseByte i).bind fun d => (parseOn o).map (Instr.setch · d)
  | ['C', 'L', 'R', 'E', 'R', 'R'], [i] => (parseByte i).map (Instr.clrerr 0 ·)
  | ['C', 'L', 'R', 'A', 'L', 'L'], [] => some (.clrall 0 0)
  | ['S', 'L', 'E', 'E', 'P'], [] => some (.sleep 0 0)
  | ['A', 'C', 'T', 'I', 'V', 'E'], [] => some (.active 0 0)
  | ['I', 'N', 'I', 'T'], [] => some (.init 0 0)
  | _, _ => none

/-- The word of one line: a command's, or `.word` with a raw 20-bit word. -/
def assembleLine (line : List Char) : Option CmdWord :=
  let text := trimSpaces (cutAt ';' line).1
  let mnemonic := (cutAt ' ' text).1
  let rest := trimSpaces (cutAt ' ' text).2
  let operands := if rest = [] then [] else (splitCommas rest).map trimSpaces
  match mnemonic, operands with
  | ['.', 'w', 'o', 'r', 'd'], [n] =>
    match parseNumber n with
    | some w => if w < 2 ^ 20 then some (BitVec.ofNat 20 w) else none
    | none => none
  | _, _ =>
    match (assembleCommand mnemonic operands).map encode with
    | some (.command w) => some w
    | _ => none

end Sys2Proof.Machine
end

