-- ==== Sys2Proof/Tests/Slice0.lean ====
section
/-! SUPPORT. The model's own tests. Expected results are 95_test_vectors.md's or are written out by hand from the rule
named; then, for every statement with hypotheses, a state and operands that meet them. -/

namespace Sys2Proof.Tests

open Sys2Proof Sys2Proof.Machine

/-! ### Helpers -/

/-- IDLE, the line high, DR arbitrary, the adapter answering `script`. -/
def ready (script : List Answer) : State := { State.reset with mode := 1, dr := 0x1234, script := script }

/-- RUN, in the middle of the command in `cr`. -/
def mid (cr : CmdWord) (upc : BitVec 4) (dr : BitVec 16) (pend : Pend) (script : List Answer) : State :=
  { ready script with phase := .run, cr := cr, upc := upc, dr := dr, pend := pend }

/-- A device whose OUT holds `m`, HWCR 0x21 and HWCR_OCL 0x3C; OUT and HWCR are ordinary. -/
def deviceWith (m : Byte) : Device where
  regs := [(0x00, m), (0x0C, 0x21), (0x0D, 0x3C)]
  ordinary := [0x00, 0x0C]
  owed := none
  changes := []
  asleep := false
  draws := 0

/-- IDLE with that device at the far end. -/
def withDevice (m : Byte) : State := { ready [] with device := some (deviceWith m) }

/-- The one value FaultInfo has for certain. -/
def someInfo : FaultInfo := ⟨0, rfl⟩

/-- What holds of the next state. -/
def nextMeets (o : Host.Outcome State Fault Refusal) (p : State → Bool) : Bool :=
  match o with
  | .next t => p t
  | .fault _ => false
  | .refused _ => false

def isRefused (o : Host.Outcome State Fault Refusal) : Bool :=
  match o with
  | .next _ => false
  | .fault _ => false
  | .refused _ => true

/-- Status and data of the last entry, where it is a response. -/
def lastResponse (s : State) : Option (BitVec 2 × BitVec 16) :=
  match s.trace.getLast? with
  | some (.responded r) => some (r.status, r.data)
  | _ => none

/-- The five elements the end states of 95_test_vectors.md give. -/
def elements (s : State) : Phase × BitVec 4 × Pend × Level × BitVec 16 := (s.phase, s.upc, s.pend, s.mode, s.dr)

/-! ### Well-formedness: the one check, on an ill-formed term of each frame that has it -/

theorem test_illformed_write : Instr.wellFormed (.write 0x40 0x12) = false := by decide
theorem test_illformed_readreq : Instr.wellFormed (.readreq 0x80) = false := by decide
theorem test_wellformed_write : Instr.wellFormed (.write 0x3F 0xFF) = true := by decide

/-! ### Decoding: words written out bit by bit from R57 to R60 -/

theorem test_decode_rdreg : decodeCommand 0b0001_00001001_00000000#20 = .ok (.rdreg 0x09 0x00) := by decide
theorem test_decode_wrreg : decodeCommand 0b0010_00001101_11111111#20 = .ok (.wrreg 0x0D 0xFF) := by decide
theorem test_decode_rddiag : decodeCommand 0b0011_10101011_11001101#20 = .ok (.rddiag 0xAB 0xCD) := by decide
theorem test_decode_setch : decodeCommand 0b0100_11111110_00000011#20 = .ok (.setch 0xFE 0x03) := by decide
theorem test_decode_clrerr : decodeCommand 0b0101_00000000_00000011#20 = .ok (.clrerr 0x00 0x03) := by decide
theorem test_decode_clrall : decodeCommand 0b0110_11111111_11111111#20 = .ok (.clrall 0xFF 0xFF) := by decide
theorem test_decode_sleep : decodeCommand 0b0111_00000000_00000000#20 = .ok (.sleep 0x00 0x00) := by decide
theorem test_decode_active : decodeCommand 0b1000_00000000_00000000#20 = .ok (.active 0x00 0x00) := by decide
theorem test_decode_init : decodeCommand 0b1001_00000000_00000000#20 = .ok (.init 0x00 0x00) := by decide
theorem test_decode_nop : decodeFrame 0b00_000000_00000000#16 = .ok .nop := by decide

theorem test_decode_diagreq : decodeFrame Config.diagReqFrame = .ok .diagreq := by
  rw [decodeFrame_order, if_pos rfl]

/-- 0x8DFF (95_test_vectors.md 3.2), where DIAG_REQ_FRAME is another frame. -/
theorem test_decode_write (h : 0b10_001101_11111111#16 ≠ Config.diagReqFrame) :
    decodeFrame 0b10_001101_11111111#16 = .ok (.write 0x0D 0xFF) := by
  rw [decodeFrame_order, if_neg h]; decide

/-- 0x4902 (95_test_vectors.md 3.2), where DIAG_REQ_FRAME is another frame. -/
theorem test_decode_readreq (h : 0b01_001001_00000010#16 ≠ Config.diagReqFrame) :
    decodeFrame 0b01_001001_00000010#16 = .ok (.readreq 0x09) := by
  rw [decodeFrame_order, if_neg h]; decide

/-- The illegal words of 95_test_vectors.md 3.2. -/
theorem test_decode_illegal :
    [0x00000#20, 0x0FFFF#20, 0xA0000#20, 0xB1234#20, 0xC0000#20, 0xD0000#20, 0xE0000#20, 0xFFFFF#20].all
      (fun w => decodeCommand w == .error (.illegalOp (cmdOp w))) = true := by decide

/-- A frame with type bits 11 (R65). -/
theorem test_decode_no_frame (h : 0xC000#16 ≠ Config.diagReqFrame) :
    decodeFrame 0xC000#16 = .error (.notAFrame 0xC000#16) := by
  rw [decodeFrame_order, if_neg h]; decide

/-! ### The codec, the assembler and the host API (95_test_vectors.md 3.1, 3.2) -/

theorem test_pack : pack 0x3 1 = 0x0D#6 ∧ pack 0xA 2 = 0x2A#6 ∧ unpack 0x3F = (0xF#4, 3#2) := by decide

theorem test_encoders : encW 0x2A 0x55 = 0xAA55#16 ∧ encW 0xFF 0x00 = 0xBF00#16 ∧ encW 0x40 0x12 = 0x8012#16 ∧
    encR 0x15 = 0x5502#16 ∧ encR 0x49 = 0x4902#16 := by decide

theorem test_decoders : dec 0x8905 = 0x05#8 ∧ dec 0xA55A = 0x5A#8 ∧ decDiag 0x7E01 = 0x7E01#16 := by decide

theorem test_setbit : setbit 0x7F 7 true = 0xFF#8 ∧ setbit 0xFF 0 false = 0xFE#8 ∧ setbit 0x02 1 true = 0x02#8 ∧
    setbit 0xFD 1 false = 0xFD#8 := by decide

theorem test_assemble : assembleLine "WRREG HWCR_OCL, 0xFF".toList = some 0x20DFF#20 ∧
    assembleLine "SETCH 7, off ; one channel".toList = some 0x40007#20 ∧
    assembleLine ".word 0xF0108".toList = some 0xF0108#20 := by decide

theorem test_toggle_of_zero : ApiCall.expand (.toggleOutput 0 true) = some (.setch 0x01 0xFF) := by decide

/-! ### One step of each instruction (95_test_vectors.md 3.3 to 3.6) -/

/-- Accept keeps the ignored fields (R61): 0x3ABCD. -/
theorem test_accept : nextMeets (step { ready [] with offers := [0x3ABCD] })
    (fun t => t.cr == 0x3ABCD && t.phase == .run && t.upc == 0 && t.trace == [.accepted 0x3ABCD]) = true := by decide

theorem test_rdreg_captures : nextMeets (exec (.rdreg 0x09 0) (mid 0x10900 1 0 .rdData [.rx 0x8905]))
    (fun t => t.dr == 0x0005 && t.pend == .rdTrail && t.upc == 2 && t.trace == [.sent 0x0000]) = true := by decide

/-- The frame received in the third exchange has no influence. -/
theorem test_rdreg_drains : nextMeets (exec (.rdreg 0 0) (mid 0x10000 2 0 .rdTrail [.rx 0x34FF]))
    (fun t => t.dr == 0x0000 && t.pend == .none && t.upc == 3) = true := by decide

theorem test_wrreg_sends : nextMeets (exec (.wrreg 0x4D 0x11) (mid 0x24D11 0 0x1234 .none [.rx 0xFFFF]))
    (fun t => t.trace == [.sent 0x8D11] && t.dr == 0x1234 && t.pend == .wrStatus) = true := by decide

theorem test_wrreg_aborts : nextMeets (exec (.wrreg 0 0xA5) (mid 0x200A5 1 0x1234 .wrStatus [.fault someInfo true]))
    (fun t => elements t == (.idle, 0, .none, 1, 0x1234) &&
      t.trace == [.sent 0x0000, .responded ⟨1, 0x0000, someInfo⟩]) = true := by decide

theorem test_rddiag_captures : nextMeets (exec (.rddiag 0 0) (mid 0x30000 1 0 .diagWord [.rx 0x7E01]))
    (fun t => t.dr == 0x7E01 && t.pend == .none && t.upc == 2) = true := by decide

theorem test_rddiag_responds : nextMeets (exec (.rddiag 0 0) (mid 0x30000 2 0x7E01 .none []))
    (fun t => lastResponse t == some (0, 0x7E01) && t.phase == .idle) = true := by decide

theorem test_setch_writes_back : nextMeets (exec (.setch 1 4) (mid 0x40104 3 0x00A5 .none [.rx 0x0000]))
    (fun t => t.trace == [.sent 0x80B5] && t.pend == .wrStatus) = true := by decide

/-- `SETCH 8, on` responds OK at once. -/
theorem test_setch_out_of_range : nextMeets (exec (.setch 1 8) (mid 0x40108 0 0x1234 .none [.rx 0xFFFF]))
    (fun t => lastResponse t == some (0, 0x0000) && elements t == (.idle, 0, .none, 1, 0x1234)) = true := by decide

theorem test_clrerr_sends : nextMeets (exec (.clrerr 0 3) (mid 0x50003 0 0 .none [.rx 0x0000]))
    (fun t => t.trace == [.sent 0x8D08]) = true := by decide

/-- `CLRERR 0x10` sends nothing. -/
theorem test_clrerr_out_of_range : nextMeets (exec (.clrerr 0 0x10) (mid 0x50010 0 0 .none []))
    (fun t => lastResponse t == some (0, 0x0000) && t.trace.length == 1) = true := by decide

theorem test_clrall_sends : nextMeets (exec (.clrall 0 0) (mid 0x60000 0 0 .none [.rx 0x0000]))
    (fun t => t.trace == [.sent 0x8DFF]) = true := by decide

theorem test_sleep_pin : nextMeets (exec (.sleep 0 0) (mid 0x70000 2 0 .none []))
    (fun t => t.mode == 0 && t.upc == 3 && t.trace == [.pin 0]) = true := by decide

/-- SLEEP, F(1): the line keeps its level. -/
theorem test_sleep_aborts : nextMeets (exec (.sleep 0 0) (mid 0x70000 1 0 .wrStatus [.fault someInfo false]))
    (fun t => t.mode == 1 && t.phase == .idle && lastResponse t == some (1, 0x0000)) = true := by decide

theorem test_active_reads : nextMeets (exec (.active 0 0) (mid 0x80000 2 0 .none [.rx 0x0000]))
    (fun t => t.trace == [.sent 0x4C02] && t.pend == .rdData) = true := by decide

/-- With the ACT bits set already, whichever they are, the same byte goes back: r1 = 0xFFFF sends 0x8CFF. -/
theorem test_active_writes_back : exec (.active 0 0) (mid 0x80000 5 0x00FF .none [.rx 0x0000]) =
    .next { mid 0x80000 6 0x00FF .wrStatus [] with trace := [.sent 0x8CFF], draws := 1 } := by
  have all : (0xFF#8 ||| Config.hwcrActMask) = 0xFF#8 := BitVec.allOnes_or
  have due : (activeProg 0x00FF)[5]? = some (.xfer (encW 0x0C#8 (0xFF#8 ||| Config.hwcrActMask)) .drop .wrStatus) := rfl
  rw [all] at due
  have fifth : (mid 0x80000 5 0x00FF .none [.rx 0x0000]).upc.toNat = 5 := rfl
  simp only [exec, execActive, stepCommand, fifth]
  rw [show (mid 0x80000 5 0x00FF .none [.rx 0x0000]).dr = 0x00FF from rfl, due]
  rfl

theorem test_init_first : nextMeets (exec (.init 0 0) (mid 0x90000 0 0 .none [.rx 0x0000]))
    (fun t => t.trace == [.sent 0x8DFF]) = true := by decide

theorem test_init_last : nextMeets (exec (.init 0 0) (mid 0x90000 10 0 .none [.rx 0x0000]))
    (fun t => t.trace == [.sent 0x8000] && t.upc == 11) = true := by decide

theorem test_write_due : nextMeets (exec (.write 0x00 0xA5) (mid 0x200A5 0 0 .none [.rx 0x0000]))
    (fun t => t.trace == [.sent 0x80A5] && t.pend == .wrStatus) = true := by decide

theorem test_write_not_due : isRefused (exec (.write 0x00 0xA5) (ready [])) = true := by decide

theorem test_readreq_due : nextMeets (exec (.readreq 0x09) (mid 0x10900 0 0 .none [.rx 0x0000]))
    (fun t => t.trace == [.sent 0x4902] && t.pend == .rdData) = true := by decide

theorem test_nop_due : nextMeets (exec .nop (mid 0x10900 1 0 .rdData [.rx 0x12A5]))
    (fun t => t.dr == 0x00A5) = true := by decide

theorem test_diagreq_due : exec .diagreq (mid 0x30000 0 0 .none [.rx 0x0000]) =
    .next { mid 0x30000 1 0 .diagWord [] with trace := [.sent Config.diagReqFrame], draws := 1 } := by
  have due : (mid 0x30000 0 0 .none [.rx 0x0000]).microOp? = some (.xfer Config.diagReqFrame .drop .diagWord) := rfl
  simp only [exec, execDiagreq, sendFrame, due, if_true]
  rfl

/-- 0xF0108 is refused: the illegal op wins over the index test. -/
theorem test_illegal_word : nextMeets (step { ready [] with offers := [0xF0108] })
    (fun t => lastResponse t == some (2, 0x0000) && elements t == (.idle, 0, .none, 1, 0x1234) && t.cr == 0) = true := by
  decide

/-- `rst` in the middle of `SETCH 4, on` (95_test_vectors.md 3.7): no response. -/
theorem test_reset_abandons : nextMeets (step { mid 0x40104 3 0x000F .rdTrail [] with rst := [.high false] })
    (fun t => t.phase == .idle && t.upc == 0 && t.pend == .none && t.mode == 0 && t.trace == [.resetDone true]) = true := by
  decide

/-- A program placed by the host's interface runs: `SETCH 1, on` is accepted. -/
theorem test_placed_command : nextMeets (step (State.reset.withFetchWord 20 0x40101))
    (fun t => t.cr == 0x40101 && t.phase == .run) = true := by decide

/-- MockW1C, CLRERR 3 with HWCR_OCL = 0x3C leaves 0x34. -/
theorem test_device_latch : ((deviceWith 0).take 0x8D08).regs.read 0x0D = some 0x34#8 := by decide

/-- A latch the device sets is added to those set already (R162). -/
theorem test_device_sets_latch :
    ({ deviceWith 0 with changes := [some (0x0D, 0x40)] }.take 0x0000).regs.read 0x0D = some 0x7C#8 := by decide

/-- CLRALL against latches nobody knows leaves 0x00 (R23; 95_test_vectors.md P7). -/
theorem test_device_unknown_latches : ({ deviceWith 0 with regs := [] }.take 0x8DFF).regs.read 0x0D = some 0x00#8 := by
  show some (Config.freeLatches 0 &&& ~~~0xFF#8) = some 0x00#8
  exact congrArg some BitVec.and_zero

/-- An exchange that never returns, and the reset that ends it (R148, R151). -/
theorem test_hang : nextMeets (step (mid 0x200A5 0 0 .none [.never]))
    (fun t => t == mid 0x200A5 0 0 .none [.never]) = true ∧
    nextMeets (step { mid 0x200A5 0 0 .none [.never] with rst := [.high false] })
      (fun t => t.phase == .idle && t.script == [] && t.trace == [.resetDone true]) = true := by decide

/-! ### Every statement's hypotheses can be met -/

theorem wit_WriteFrameBits : (0x8000#16).extractLsb' 14 2 = 0b10#2 ∧ (0xBFFF#16).extractLsb' 14 2 = 0b10#2 := by decide

theorem wit_ResponseDecodersKeepTheirBits : (0x00A5#16).extractLsb' 0 8 = (0xFFA5#16).extractLsb' 0 8 := by decide

theorem wit_SetbitTouchesOneChannel : (0x02#8).getLsbD (1#3).toNat = true ∧ (0xFD#8).getLsbD (1#3).toNat = false := by
  decide

/-- Of any two frames one is not DIAG_REQ_FRAME. -/
theorem one_of_two (t u : Frame) (h : t ≠ u) : t ≠ Config.diagReqFrame ∨ u ≠ Config.diagReqFrame := by
  by_cases ht : t = Config.diagReqFrame
  · exact .inr fun hu => h (ht.trans hu.symm)
  · exact .inl ht

theorem wit_DecodeOfEncode_command : Instr.wellFormed (.setch 0xFF 0xFF) = true ∧
    (encode (.setch 0xFF 0xFF) = .frame Config.diagReqFrame → Instr.setch 0xFF 0xFF = .diagreq) :=
  ⟨rfl, fun h => nomatch h⟩

theorem wit_DecodeOfEncode_nop : Instr.wellFormed .nop = true ∧
    (encode .nop = .frame Config.diagReqFrame → Instr.nop = .diagreq) :=
  ⟨rfl, fun h => absurd (Encoded.frame.inj h).symm Config.diagReqFrame_ne_zero⟩

theorem wit_DecodeOfEncode_diagreq : Instr.wellFormed .diagreq = true ∧
    (encode .diagreq = .frame Config.diagReqFrame → Instr.diagreq = .diagreq) := ⟨rfl, fun _ => rfl⟩

theorem wit_DecodeOfEncode_write : ∃ v : Byte, Instr.wellFormed (.write 0x3F v) = true ∧
    (encode (.write 0x3F v) = .frame Config.diagReqFrame → Instr.write 0x3F v = .diagreq) := by
  rcases one_of_two 0xBF00#16 0xBFFF#16 (by decide) with h | h
  · exact ⟨0x00, by decide, fun e => absurd (Encoded.frame.inj e) h⟩
  · exact ⟨0xFF, by decide, fun e => absurd (Encoded.frame.inj e) h⟩

theorem wit_DecodeOfEncode_readreq : ∃ a : Byte, Instr.wellFormed (.readreq a) = true ∧
    (encode (.readreq a) = .frame Config.diagReqFrame → Instr.readreq a = .diagreq) := by
  rcases one_of_two 0x4002#16 0x7F02#16 (by decide) with h | h
  · exact ⟨0x00, by decide, fun e => absurd (Encoded.frame.inj e) h⟩
  · exact ⟨0x3F, by decide, fun e => absurd (Encoded.frame.inj e) h⟩

theorem wit_EncodeOfDecodeIsTheWord : decode (.command 0x40108) = .ok (.setch 0x01 0x08) ∧
    decode (.frame 0x0000) = .ok .nop := by decide

theorem wit_TransmittedFrame_diagreq : Config.diagReqFrame = Config.diagReqFrame := rfl

theorem wit_TransmittedFrame_nop : 0x0000#16 ≠ Config.diagReqFrame := Config.diagReqFrame_ne_zero.symm

theorem wit_TransmittedFrame_write :
    ∃ t : Frame, t ≠ Config.diagReqFrame ∧ t ≠ 0x0000#16 ∧ t &&& 0xC000#16 = 0x8000#16 := by
  rcases one_of_two 0x8000#16 0xBFFF#16 (by decide) with h | h
  · exact ⟨_, h, by decide, by decide⟩
  · exact ⟨_, h, by decide, by decide⟩

theorem wit_TransmittedFrame_readreq : ∃ t : Frame, t ≠ Config.diagReqFrame ∧ t ≠ 0x0000#16 ∧
    t &&& 0xC000#16 ≠ 0x8000#16 ∧ t &&& 0xC0FF#16 = 0x4002#16 := by
  rcases one_of_two 0x4002#16 0x7F02#16 (by decide) with h | h
  · exact ⟨_, h, by decide, by decide, by decide⟩
  · exact ⟨_, h, by decide, by decide, by decide⟩

theorem wit_TransmittedFrame_none : ∃ t : Frame, t ≠ Config.diagReqFrame ∧ t ≠ 0x0000#16 ∧
    t &&& 0xC000#16 ≠ 0x8000#16 ∧ t &&& 0xC0FF#16 ≠ 0x4002#16 := by
  rcases one_of_two 0x4003#16 0xC000#16 (by decide) with h | h
  · exact ⟨_, h, by decide, by decide, by decide⟩
  · exact ⟨_, h, by decide, by decide, by decide⟩

/-- Reset in IDLE, at a WAIT, with a frame in flight that the device did not take, and with one that it took. -/
theorem wit_ResetAppliesFromEveryState :
    ({ ready [] with rst := [.high true] } : State).microOp? = none ∧
    ({ mid 0x70000 3 0 .none [] with rst := [.high true], settle := [.never] } : State).microOp? = some .wait ∧
    { mid 0x40104 3 0x000F .rdTrail [] with rst := [.high false, .low] }.rst = .high false :: [.low] ∧
    ({ mid 0x40104 3 0x000F .rdTrail [] with rst := [.high true] } : State).microOp? =
      some (.xfer 0x801F .drop .wrStatus) := by decide

/-- `rst` is low where its list is empty and where it says so. -/
theorem ready_rstLow : (ready []).RstLow ∧ ({ ready [] with rst := [.low, .high true] } : State).RstLow :=
  ⟨fun _ => by decide +revert, fun _ => by decide +revert⟩

/-- IDLE with a word offered, RUN with a word in CR, and IDLE with none. -/
theorem wit_StepRunsTheFetchedInstruction :
    decodeCommand 0x40101 = .ok (.setch 0x01 0x01) ∧
    ((mid 0x40101 3 0 .none []).phase = .run ∧
      decodeCommand (mid 0x40101 3 0 .none []).cr = .ok (.setch 0x01 0x01)) ∧
    ((ready []).phase = .idle ∧ (ready []).offers = []) := by decide

theorem wit_IllegalCommandIsRefusedAtAccept :
    (ready []).phase = .idle ∧ cmdOp 0x0FFFF = 0x0#4 ∧ 0xA#4 ≤ cmdOp 0xA0000 ∧
    0xA#4 ≤ cmdOp 0xFFFFF := by decide

theorem wit_AcceptLatchesTheWord : encode (.rddiag 0xAB 0xCD) = .command 0x3ABCD ∧ (ready []).phase = .idle := by decide

/-- The three captures: a drop, a byte, a word. -/
theorem wit_CommandStepPerformsItsExchange :
    (progOf (.wrreg 0 0xA5) 0)[0]? = some (.xfer 0x80A5 .drop .wrStatus) ∧
    (mid 0x200A5 0 0 .none [.rx 0xFFFF]).answer = .rx 0xFFFF ∧
    (progOf (.rdreg 9 0) 0)[1]? = some (.xfer 0x0000 .data8 .rdTrail) ∧
    (mid 0x10900 1 0 .rdData [.rx 0x8905]).answer = .rx 0x8905 ∧
    (progOf (.rddiag 0 0) 0)[1]? = some (.xfer 0x0000 .data16 .none) ∧
    (mid 0x30000 1 0 .diagWord [.rx 0x7E01]).answer = .rx 0x7E01 := by decide

theorem wit_CommandStepPerformsPinAndWait :
    (progOf (.sleep 0 0) 0)[2]? = some (.pin 0) ∧ (progOf (.sleep 0 0) 0)[3]? = some .wait ∧
    (mid 0x70000 3 0 .none []).WaitOver ∧ ({ mid 0x70000 3 0 .none [] with settle := [.high] } : State).WaitOver := by
  unfold State.WaitOver; decide

theorem wit_CommandCompletesAtItsEnd :
    (mid 0x10900 3 5 .none []).upc.toNat = (progOf (.rdreg 9 0) 5).length ∧
    (mid 0x90000 12 0 .none []).upc.toNat = (progOf (.init 0 0) 0).length ∧
    (mid 0x40108 0 0 .none []).upc.toNat = (progOf (.setch 1 8) 0).length := by decide

theorem wit_TransportFaultAbortsTheCommand :
    (progOf (.setch 1 4) 0x000F)[3]? = some (.xfer 0x801F .drop .wrStatus) ∧
    (mid 0x40104 3 0x000F .none [.fault someInfo false]).answer = .fault someInfo false ∧
    (mid 0x40104 3 0x000F .none [.fault someInfo true]).answer = .fault someInfo true := by decide

theorem wit_UnfinishedExchangeOrWaitHoldsTheBlock :
    (progOf (.wrreg 0 0xA5) 0)[0]? = some (.xfer 0x80A5 .drop .wrStatus) ∧
    (mid 0x200A5 0 0 .none [.pending]).answer = .pending ∧ (mid 0x200A5 0 0 .none [.never]).answer = .never ∧
    (progOf (.sleep 0 0) 0)[3]? = some .wait ∧
    { mid 0x70000 3 0 .none [] with settle := [.low, .high] }.settle.head? = some .low ∧
    { mid 0x70000 3 0 .none [] with settle := [.never] }.settle.head? = some .never := by decide

/-- Both ways to hang, one of them with `rst` named low. -/
theorem wit_HangingBlockStaysForEver :
    (mid 0x200A5 0 0 .none [.never]).Hangs ∧ (∀ l ∈ (mid 0x200A5 0 0 .none [.never]).rst, l = .low) ∧
    ({ mid 0x70000 3 0 .none [] with settle := [.never], rst := [.low] } : State).Hangs := by
  refine ⟨.inl ⟨0x80A5, .drop, .wrStatus, by decide, by decide⟩, by decide, .inr ⟨by decide, by decide⟩⟩

theorem wit_FairCommandEnds : (mid 0x30000 1 0 .diagWord [.pending, .rx 0x7E01]).Inv ∧
    (mid 0x30000 1 0 .diagWord [.pending, .rx 0x7E01]).Fair ∧
    (mid 0x30000 1 0 .diagWord [.pending, .rx 0x7E01]).rst = [] := by
  refine ⟨⟨fun h => absurd h (by decide), fun _ => ⟨.rddiag 0 0, by decide, by decide, by rfl⟩, fun d hd => ?_⟩, ?_, rfl⟩
  · cases hd
  · unfold State.Fair; decide

theorem wit_CommandAnswersNextUpToItsEnd : (progOf (.wrreg 0 0) 0).length < (mid 0x20000 3 0 .none []).upc.toNat ∧
    Instr.isCommand (.wrreg 0 0) = true := by decide

/-- Each of the four frames, where it is due. -/
theorem wit_FrameIsExchangedWhereDue :
    (encode (.write 0 0xA5) = .frame 0x80A5 ∧ (mid 0x200A5 0 0 .none [.rx 0]).microOp? = some (.xfer 0x80A5 .drop .wrStatus)) ∧
    (encode (.readreq 9) = .frame 0x4902 ∧ (mid 0x10900 0 0 .none [.rx 0]).microOp? = some (.xfer 0x4902 .drop .rdData)) ∧
    (encode .nop = .frame 0 ∧ (mid 0x10900 1 0 .rdData [.rx 0]).microOp? = some (.xfer 0 .data8 .rdTrail)) ∧
    (encode .diagreq = .frame Config.diagReqFrame ∧
      (mid 0x30000 0 0 .none [.rx 0]).microOp? = some (.xfer Config.diagReqFrame .drop .diagWord)) :=
  ⟨by decide, by decide, by decide, rfl, rfl⟩

/-- IDLE; RUN at a PIN; RUN at an exchange of another frame. -/
theorem wit_FrameNotDueIsRefused :
    encode .nop = .frame 0x0000 ∧ (ready []).phase = .idle ∧ (ready []).microOp? = none ∧
    (mid 0x70000 2 0 .none []).microOp? = some (.pin 0) ∧
    (mid 0x200A5 0 0 .none []).microOp? = some (.xfer 0x80A5 .drop .wrStatus) ∧ 0x80A5#16 ≠ 0x0000#16 := by decide

/-- Both sides of the bounds test. -/
theorem wit_MicroProgramLengthsAreStatic : (0x07#8) ≤ 7#8 ∧ 7#8 < (0x08#8) ∧ (0x00#8) ≤ 7#8 ∧ 7#8 < (0xFF#8) := by decide

theorem wit_PendTransitionsFollowTheTable :
    (progOf (.rddiag 0 0) 0)[1]? = some (.xfer 0x0000 .data16 .none) ∧
    (progOf (.rdreg 9 0) 0)[0]? = some (.xfer 0x4902 .drop .rdData) ∧
    (progOf (.setch 1 4) 0)[4]? = some (.xfer 0x0000 .drop .none) := by decide

/-- A step that sends, and a step that responds. -/
theorem wit_steps_that_answer_next :
    (∃ t, step (mid 0x200A5 0 0 .none [.rx 0]) = .next t) ∧ (∃ t, step (mid 0x10900 3 5 .none []) = .next t) :=
  ⟨⟨_, rfl⟩, ⟨_, rfl⟩⟩

theorem wit_two_exchange_runs : (ready [.rx 1, .rx 2]).phase = .idle ∧ (ready [.rx 1, .rx 2]).script = .rx 1 :: .rx 2 :: [] ∧
    (0x07#8) ≤ 7#8 ∧ (0x00#8) ≤ 7#8 := by decide

theorem wit_RdregRunsToItsResponse : (ready [.rx 0x12A5, .rx 0x8905, .rx 0x34FF]).phase = .idle ∧
    (ready [.rx 0x12A5, .rx 0x8905, .rx 0x34FF]).script = .rx 0x12A5 :: .rx 0x8905 :: .rx 0x34FF :: [] := by decide

theorem wit_five_exchange_runs : (ready [.rx 1, .rx 2, .rx 3, .rx 4, .rx 5]).phase = .idle ∧
    (ready [.rx 1, .rx 2, .rx 3, .rx 4, .rx 5]).script = .rx 1 :: .rx 2 :: .rx 3 :: .rx 4 :: .rx 5 :: [] ∧
    (0x07#8) ≤ 7#8 ∧ (ready [.rx 1, .rx 2, .rx 3, .rx 4, .rx 5]).settle = [] := by decide

theorem wit_OutOfRangeIndexIsANoOp : (ready []).phase = .idle ∧ (ready []).upc = 0 ∧ 7#8 < (0x08#8) ∧ 7#8 < (0xFF#8) ∧
    (0x00#8) ≤ 7#8 ∧ (0x07#8) ≤ 7#8 := by decide

theorem wit_SleepRunsToItsResponse : (ready [.rx 1, .rx 2]).phase = .idle ∧
    (ready [.rx 1, .rx 2]).settle = [] ∧ (ready [.rx 1, .rx 2]).script = .rx 1 :: .rx 2 :: [] := by decide

theorem wit_InitRunsToItsResponse :
    (ready [.rx 0, .rx 1, .rx 2, .rx 3, .rx 4, .rx 5, .rx 6, .rx 7, .rx 8, .rx 9, .rx 10, .rx 11]).phase = .idle ∧
    (ready [.rx 0, .rx 1, .rx 2, .rx 3, .rx 4, .rx 5, .rx 6, .rx 7, .rx 8, .rx 9, .rx 10, .rx 11]).script =
      [.rx 0, .rx 1, .rx 2, .rx 3, .rx 4, .rx 5, .rx 6, .rx 7, .rx 8, .rx 9, .rx 10, .rx 11] ++ [] := by decide

/-- A running state with a device that meets the invariant. -/
theorem running_inv : ({ mid 0x10900 1 0 .rdData [.rx 0x8905] with device := some (deviceWith 0x81) } : State).Inv := by
  refine ⟨fun h => absurd h (by decide), fun _ => ⟨.rdreg 9 0, by decide, by decide, by decide⟩, ?_⟩
  intro d hd
  cases hd
  decide

/-- For EveryStepKeepsTheInvariant, NoStepStopsUnderTheInvariant, UpcNeverExceedsTwelve and DrIsWrittenOnlyByACapture:
that state meets the invariant, its step answers next, and DR changes. -/
theorem wit_invariant_step :
    nextMeets (step { mid 0x10900 1 0 .rdData [.rx 0x8905] with device := some (deviceWith 0x81) })
      (fun t => t.dr == 0x0005) = true := by decide

theorem diagWord_inv : (mid 0x30000 1 0 .diagWord [.rx 0x7E01]).Inv := by
  refine ⟨fun h => absurd h (by decide), fun _ => ⟨.rddiag 0 0, by decide, by decide, by rfl⟩, ?_⟩
  intro d hd
  cases hd

/-- UPC at its greatest, 12. -/
theorem wit_UpcNeverExceedsTwelve : (mid 0x90000 12 0 .none []).Inv := by
  refine ⟨fun h => absurd h (by decide), fun _ => ⟨.init 0 0, by decide, by decide, by rfl⟩, ?_⟩
  intro d hd
  cases hd

theorem wit_EveryStepKeepsTheAccount :
    ({ mid 0x200A5 1 0 .wrStatus [.fault someInfo true] with trace := [.accepted 0x200A5] } : State).Accounted := by
  unfold State.Accounted; decide

/-- A response of status 0, 1 and 2 ends a step. -/
theorem wit_EveryResponseFindsTheBlockDrained :
    nextMeets (step (mid 0x30000 2 0x7E01 .none [])) (fun t => lastResponse t == some (0, 0x7E01)) = true ∧
    nextMeets (step (mid 0x200A5 1 0 .wrStatus [.fault someInfo true])) (fun t => lastResponse t == some (1, 0)) = true ∧
    nextMeets (step { ready [] with offers := [0x00000] }) (fun t => lastResponse t == some (2, 0)) = true := by decide

theorem wit_OldCrAndDrAreNeverObserved : ({ ready [.rx 1, .rx 2, .rx 3] with offers := [0x10900] } : State).phase = .idle ∧
    ∃ t, Host.Core.run Sys2Proof.core 5 { ready [.rx 1, .rx 2, .rx 3] with offers := [0x10900] } = .next t :=
  ⟨rfl, _, rfl⟩

theorem wit_ReceivedBitsNeverSteerTheBlock :
    ∃ t, step { mid 0x10900 1 0 .rdData [] with script := .rx 0x8905 :: [] } = .next t := ⟨_, rfl⟩

/-- MODE moves: by reset, by SLEEP's PIN and by ACTIVE's. -/
theorem wit_ModeMovesOnlyByPinOrReset :
    nextMeets (step { ready [] with rst := [.high false] }) (fun t => t.mode != 1) = true ∧
    nextMeets (step (mid 0x70000 2 0 .none [])) (fun t => t.mode != 1) = true ∧
    nextMeets (step { mid 0x80000 0 0 .none [] with mode := 0 }) (fun t => t.mode != 0) = true := by
  refine ⟨by decide, by decide, rfl⟩

theorem wit_RunningBlockIgnoresThePort :
    ({ mid 0x200A5 0 0 .none [.rx 0] with offers := [0x90000], rst := [.low] } : State).phase = .run ∧
    ({ mid 0x200A5 0 0 .none [.rx 0] with offers := [0x90000], rst := [.low] } : State).RstLow ∧
    ∃ t, step { mid 0x200A5 0 0 .none [.rx 0] with offers := [0x90000], rst := [.low] } = .next t :=
  ⟨rfl, fun _ => by decide +revert, _, rfl⟩

theorem wit_CommandLeavesOtherDeviceRegisters : Instr.isCommand (.wrreg 0 0xA5) = true ∧
    (deviceWith 0x81).asleep = false ∧ (deviceWith 0x81).changes = [] ∧
    (∃ t, exec (.wrreg 0 0xA5) { mid 0x200A5 0 0 .none [] with device := some (deviceWith 0x81) } = .next t) ∧
    0x0C#6 ∉ writesTo (.wrreg 0 0xA5) := ⟨rfl, rfl, rfl, ⟨_, rfl⟩, by decide⟩

theorem withDevice_farEnd (m : Byte) : (withDevice m).FarEndIs (deviceWith m) := ⟨rfl, rfl, rfl, rfl⟩

/-- For the statements about the assumed device: IDLE, no wait pending, OUT and HWCR ordinary and known, HWCR_OCL
known. -/
theorem wit_device_statements : (withDevice 0x81).phase = .idle ∧ (withDevice 0x81).settle = [] ∧
    (withDevice 0x81).FarEndIs (deviceWith 0x81) ∧ RegName.out.addr ∈ (deviceWith 0x81).ordinary ∧
    RegName.hwcr.addr ∈ (deviceWith 0x81).ordinary ∧ (deviceWith 0x81).regs.read RegName.out.addr = some 0x81#8 ∧
    (deviceWith 0x81).regs.read RegName.hwcr.addr = some 0x21#8 ∧
    (deviceWith 0x81).regs.read RegName.hwcrOcl.addr = some 0x3C#8 ∧ (0x07#8) ≤ 7#8 ∧ ¬((0x08#8) ≤ 7#8) ∧
    (0x01#8) ≠ 0x07#8 := ⟨rfl, rfl, withDevice_farEnd _, by decide, by decide, by decide, by decide, by decide, by decide,
      by decide, by decide⟩

theorem wit_WriteThenReadRoundTrip : (0x00#8).setWidth 6 ∈ (deviceWith 0x81).ordinary ∧
    (0x00#8).setWidth 6 ≠ RegName.hwcrOcl.addr ∧ (deviceWith 0x81).regs.read ((0x4D#8).setWidth 6) = some 0x3C#8 := by decide

end Sys2Proof.Tests
end

/-! ### The sequencer and the step, one equation per case -/

namespace Sys2Proof.Machine

/-- In IDLE a command's step is Accept (R91). -/
theorem stepCommand_idle (w : CmdWord) (prog : List MicroOp) (result : BitVec 16) (s : State)
    (hp : s.phase = .idle) : stepCommand w prog result s = .next (s.accept w) := by
  simp only [stepCommand, hp]

/-- In RUN at a micro-operation it is that micro-operation (R90, R91). -/
theorem stepCommand_perform (w : CmdWord) (prog : List MicroOp) (result : BitVec 16) (s : State) (op : MicroOp)
    (hp : s.phase = .run) (hop : prog[s.upc.toNat]? = some op) :
    stepCommand w prog result s = .next (perform op s) := by
  simp only [stepCommand, hp, hop]

/-- In RUN at the end it is Complete (R91). -/
theorem stepCommand_complete (w : CmdWord) (prog : List MicroOp) (result : BitVec 16) (s : State)
    (hp : s.phase = .run) (hend : s.upc.toNat = prog.length) :
    stepCommand w prog result s = .next (s.complete result) := by
  have beyond : prog[s.upc.toNat]? = none := List.getElem?_eq_none hend.ge
  simp only [stepCommand, hp, beyond, if_pos hend]

/-- Beyond the end it stops (log entry 9). -/
theorem stepCommand_pastEnd (w : CmdWord) (prog : List MicroOp) (result : BitVec 16) (s : State)
    (hp : s.phase = .run) (hpast : prog.length < s.upc.toNat) :
    stepCommand w prog result s = .fault .upcPastEnd := by
  have beyond : prog[s.upc.toNat]? = none := List.getElem?_eq_none hpast.le
  simp only [stepCommand, hp, beyond, if_neg hpast.ne']

/-- A command's step answers a next state exactly in IDLE and up to the end of the micro-program. -/
theorem stepCommand_next_iff (w : CmdWord) (prog : List MicroOp) (result : BitVec 16) (s : State) :
    (∃ t, stepCommand w prog result s = .next t) ↔ (s.phase = .idle ∨ s.upc.toNat ≤ prog.length) := by
  cases hp : s.phase with
  | idle => simp [stepCommand_idle _ _ _ _ hp]
  | run =>
    rcases Nat.lt_trichotomy s.upc.toNat prog.length with hlt | hend | hpast
    · simp [stepCommand_perform _ _ _ _ _ hp (List.getElem?_eq_getElem hlt), hlt.le]
    · simp [stepCommand_complete _ _ _ _ hp hend, hend.le]
    · simp [stepCommand_pastEnd _ _ _ _ hp hpast, hpast]

/-- What a step fetches with `rst` low (R150). -/
theorem State.fetch_low (s : State) (hlow : ∀ delivered rest, s.rst ≠ .high delivered :: rest) :
    s.fetch = ({ s with rst := s.rst.tail } : State).fetchCommand := by
  rcases s.fetch_cases with ⟨delivered, rest, hr, _⟩ | ⟨_, hf⟩
  · exact absurd hr (hlow _ _)
  · exact hf

/-- The two ways to say that `rst` is low in the coming step. -/
theorem State.rstLow_iff (s : State) : s.RstLow ↔ ∀ delivered rest, s.rst ≠ .high delivered :: rest := by
  unfold State.RstLow
  cases s.rst <;> simp

/-- With `rst` high a step cuts what is in flight and resets (R150, R151). -/
theorem step_reset (s : State) (delivered : Bool) (rest : List ResetLevel) (hr : s.rst = .high delivered :: rest) :
    step s = .next (({ s with rst := rest } : State).cutShort delivered).applyReset := by
  have hf : s.fetch = .reset (({ s with rst := rest } : State).cutShort delivered) := by
    simp only [State.fetch, hr]
  simp only [step, hf]

section RstLow
variable (s : State) (hlow : ∀ delivered rest, s.rst ≠ .high delivered :: rest)
include hlow

/-- IDLE with no word offered: the block waits (R11). -/
theorem step_waiting (hp : s.phase = .idle) (ho : s.offers = []) : step s = .next { s with rst := s.rst.tail } := by
  simp only [step, s.fetch_low hlow, State.fetchCommand, hp, ho]

/-- IDLE with no legal command at the port: the word is refused (R134). -/
theorem step_illegal (w : CmdWord) (rest : List CmdWord) (e : Reject) (hp : s.phase = .idle)
    (ho : s.offers = w :: rest) (hd : decodeCommand w = .error e) :
    step s = .next (({ s with rst := s.rst.tail, offers := rest } : State).raise .illegalCommand) := by
  simp only [step, s.fetch_low hlow, State.fetchCommand, hp, ho, hd]

/-- IDLE with a command at the port: Accept (R91). -/
theorem step_accept (w : CmdWord) (rest : List CmdWord) (i : Instr) (hp : s.phase = .idle)
    (ho : s.offers = w :: rest) (hd : decodeCommand w = .ok i) :
    step s = .next (({ s with rst := s.rst.tail, offers := rest } : State).accept w) := by
  have hf : s.fetch = .instr i { s with rst := s.rst.tail, offers := rest } := by
    simp only [s.fetch_low hlow, State.fetchCommand, hp, ho, hd]
  simp only [step, hf]
  rw [exec_command _ _ (decodeCommand_isCommand _ _ hd), wordOf_decodeCommand _ _ hd]
  exact stepCommand_idle _ _ _ _ hp

/-- RUN: the step of the command CR holds (R91). -/
theorem step_running (i : Instr) (hp : s.phase = .run) (hd : decodeCommand s.cr = .ok i) :
    step s = stepCommand (wordOf i) (progOf i s.dr) (resultOf i s.dr) { s with rst := s.rst.tail } := by
  simp only [step, s.fetch_low hlow, State.fetchCommand, hp, hd]
  exact exec_command _ _ (decodeCommand_isCommand _ _ hd)

/-- RUN at a micro-operation (R90). -/
theorem step_perform (i : Instr) (op : MicroOp) (hp : s.phase = .run) (hd : decodeCommand s.cr = .ok i)
    (hop : (progOf i s.dr)[s.upc.toNat]? = some op) :
    step s = .next (perform op { s with rst := s.rst.tail }) := by
  rw [step_running s hlow i hp hd]
  exact stepCommand_perform _ _ _ _ op hp hop

/-- RUN at the end of the micro-program (R91). -/
theorem step_complete (i : Instr) (hp : s.phase = .run) (hd : decodeCommand s.cr = .ok i)
    (hend : s.upc.toNat = (progOf i s.dr).length) :
    step s = .next (({ s with rst := s.rst.tail } : State).complete (resultOf i s.dr)) := by
  rw [step_running s hlow i hp hd]
  exact stepCommand_complete _ _ _ _ hp hend

end RstLow

/-- An instruction that encodes to a command word is a command, and that word is the one Accept latches (R13, R60). -/
theorem isCommand_of_encode (i : Instr) (w : CmdWord) (h : encode i = .command w) :
    i.isCommand = true ∧ wordOf i = w := by
  refine ⟨?_, by simp only [wordOf, h]⟩
  cases i with
  | write | readreq | nop | diagreq => simp [encode] at h
  | rdreg | wrreg | rddiag | setch | clrerr | clrall | sleep | active | init => rfl

/-- Settles O18: every command's meaning is the sequencer's step, and in IDLE that is Accept of its word. -/
theorem acceptLatchesTheWord : Obligations.AcceptLatchesTheWord := by
  unfold Obligations.AcceptLatchesTheWord
  intro i w s henc hp
  obtain ⟨hc, rfl⟩ := isCommand_of_encode i w henc
  rw [exec_command s i hc, stepCommand_idle _ _ _ _ hp]
  rfl

/-- An exchange that returned `w`: sent, captured, tagged, counted (R90). -/
theorem xfer_rx (tx : Frame) (cap : Capture) (tag : Pend) (s : State) (w : Frame) (h : s.answer = .rx w) :
    xfer tx cap tag s = ((s.exchanged tx true).capture cap w).slotTo tag := by
  simp only [xfer, h]

/-- A `WAIT` that is over counts (R90, R143). -/
theorem waitOp_over (s : State) (h : s.WaitOver) : waitOp s = (s.waitSettle.log .settled).countUpc := by
  rcases waitOp_cases s with ⟨hs, _⟩ | ⟨hs, _⟩ | ⟨_, hw⟩
  · simp [State.WaitOver, ← List.head?_eq_none_iff, hs] at h
  · simp [State.WaitOver, ← List.head?_eq_none_iff, hs] at h
  · exact hw

/-- A command's step in RUN at a micro-operation performs it (R90, R91). -/
theorem exec_perform (i : Instr) (s : State) (op : MicroOp) (hc : i.isCommand = true) (hp : s.phase = .run)
    (hop : (progOf i s.dr)[s.upc.toNat]? = some op) : exec i s = .next (perform op s) := by
  rw [exec_command s i hc]
  exact stepCommand_perform _ _ _ _ op hp hop

/-- Settles O19: the command's step is the exchange at UPC, which returned; then field by field, per capture. -/
theorem commandStepPerformsItsExchange : Obligations.CommandStepPerformsItsExchange := by
  unfold Obligations.CommandStepPerformsItsExchange
  intro i s tx cap tag w hc hp hop hrx
  rw [exec_perform i s _ hc hp hop, perform, xfer_rx _ _ _ _ w hrx]
  cases cap <;> rfl

/-- Settles O20: the command's step is the micro-operation at UPC, a pin move or a wait that is over. -/
theorem commandStepPerformsPinAndWait : Obligations.CommandStepPerformsPinAndWait := by
  unfold Obligations.CommandStepPerformsPinAndWait
  intro i s hc hp
  refine ⟨fun level hop => ?_, fun hop hover => ?_⟩
  · rw [exec_perform i s _ hc hp hop]; rfl
  · rw [exec_perform i s _ hc hp hop, perform, waitOp_over s hover]; rfl

/-- Settles O24: a command's meaning is the sequencer's step, which says when it answers. -/
theorem commandAnswersNextUpToItsEnd : Obligations.CommandAnswersNextUpToItsEnd := by
  unfold Obligations.CommandAnswersNextUpToItsEnd
  intro i s hc
  rw [exec_command s i hc]
  exact ⟨stepCommand_next_iff _ _ _ s, fun hp hpast => stepCommand_pastEnd _ _ _ s hp hpast⟩

/-- Settles O41: running, CR holds a command and UPC is not beyond its end; every other case of a step answers. -/
theorem noStepStopsUnderTheInvariant : Obligations.NoStepStopsUnderTheInvariant := by
  unfold Obligations.NoStepStopsUnderTheInvariant
  intro s hinv
  obtain ⟨-, onTrack, -⟩ := hinv
  rcases s.fetch_cases with ⟨delivered, rest, hr, _⟩ | ⟨hlow, _⟩
  · exact ⟨_, step_reset s delivered rest hr⟩
  cases hp : s.phase with
  | idle =>
    cases ho : s.offers with
    | nil => exact ⟨_, step_waiting s hlow hp ho⟩
    | cons w rest =>
      cases hd : decodeCommand w with
      | ok i => exact ⟨_, step_accept s hlow w rest i hp ho hd⟩
      | error e => exact ⟨_, step_illegal s hlow w rest e hp ho hd⟩
  | run =>
    obtain ⟨i, hd, hle, -⟩ := onTrack hp
    rw [step_running s hlow i hp hd, stepCommand_next_iff]
    exact .inr hle

/-- Settles O42: idle and drained UPC is 0; running it is at most the length of a micro-program. -/
theorem upcNeverExceedsTwelve : Obligations.UpcNeverExceedsTwelve := by
  unfold Obligations.UpcNeverExceedsTwelve
  intro s hinv
  obtain ⟨drained, onTrack, -⟩ := hinv
  cases hp : s.phase with
  | idle => simp [(drained hp).2]
  | run =>
    obtain ⟨i, -, hle, -⟩ := onTrack hp
    exact BitVec.le_def.mpr (hle.trans (progOf_length_le i s.dr))

/-- Settles O13. -/
theorem resetLeavesTheBlockIdle : Obligations.ResetLeavesTheBlockIdle := ⟨rfl, rfl, rfl, rfl, rfl⟩

/-- Settles O14: after reset the block is idle and drained, and no device is assumed. -/
theorem resetMeetsTheInvariant : Obligations.ResetMeetsTheInvariant := by
  unfold Obligations.ResetMeetsTheInvariant
  refine ⟨fun _ => ⟨rfl, rfl⟩, fun hrun => ?_, fun d hd => ?_⟩
  · cases hrun
  · cases hd

end Sys2Proof.Machine

/-! ### What one micro-operation does, and the invariant -/

namespace Sys2Proof.Machine

/-- No micro-operation writes CR or takes a word off the port (R13, R46). -/
theorem perform_cr_offers (op : MicroOp) (s : State) :
    (perform op s).cr = s.cr ∧ (perform op s).offers = s.offers := by
  cases op with
  | xfer tx cap tag =>
    rcases xfer_cases s tx cap tag with ⟨w, _, h⟩ | ⟨info, delivered, _, h⟩ | ⟨_, h⟩ | ⟨_, h⟩ <;> simp [perform, h]
  | pin level => exact ⟨rfl, rfl⟩
  | wait => rcases waitOp_cases s with ⟨_, h⟩ | ⟨_, h⟩ | ⟨_, h⟩ <;> simp [perform, h]

@[simp] theorem perform_cr (op : MicroOp) (s : State) : (perform op s).cr = s.cr := (perform_cr_offers op s).1

@[simp] theorem perform_offers (op : MicroOp) (s : State) : (perform op s).offers = s.offers :=
  (perform_cr_offers op s).2

/-- The micro-operation `op` ended on the way from `s` to `t`: UPC counts, PEND takes the tag, and one entry that is no
response is recorded (R90). -/
structure State.Advanced (op : MicroOp) (s t : State) : Prop where
  phase : t.phase = s.phase
  upc : t.upc = s.upc + 1
  pend : t.pend = op.tagFrom s.pend
  logged : ∃ e, t.trace = s.trace ++ [e] ∧ ∀ r, e ≠ .responded r

/-- The block stays where it is, with nothing recorded: an exchange or a wait goes on (R148). -/
structure State.Held (s t : State) : Prop where
  phase : t.phase = s.phase
  upc : t.upc = s.upc
  pend : t.pend = s.pend
  dr : t.dr = s.dr
  trace : t.trace = s.trace

/-- The command was abandoned: the block is idle and drained (R133). -/
structure State.Aborted (t : State) : Prop where
  phase : t.phase = .idle
  upc : t.upc = 0
  pend : t.pend = .none

/-- All a micro-operation can do to the sequencer: end, go on, or abort its command. -/
theorem perform_cases (op : MicroOp) (s : State) :
    s.Advanced op (perform op s) ∨ s.Held (perform op s) ∨ (perform op s).Aborted := by
  cases op with
  | xfer tx cap tag =>
    simp only [perform]
    rcases xfer_cases s tx cap tag with ⟨w, _, h⟩ | ⟨info, delivered, _, h⟩ | ⟨_, h⟩ | ⟨_, h⟩ <;> rw [h]
    · exact .inl ⟨by simp, by simp, rfl, .sent tx, by simp, by simp⟩
    · exact .inr (.inr ⟨rfl, rfl, rfl⟩)
    · exact .inr (.inl ⟨rfl, rfl, rfl, rfl, rfl⟩)
    · exact .inr (.inl ⟨rfl, rfl, rfl, rfl, rfl⟩)
  | pin level => exact .inl ⟨rfl, rfl, rfl, .pin level, rfl, by simp⟩
  | wait =>
    simp only [perform]
    rcases waitOp_cases s with ⟨_, h⟩ | ⟨_, h⟩ | ⟨_, h⟩ <;> rw [h]
    · exact .inr (.inl ⟨rfl, rfl, rfl, rfl, rfl⟩)
    · exact .inr (.inl ⟨rfl, rfl, rfl, rfl, rfl⟩)
    · exact .inl ⟨rfl, rfl, rfl, .settled, rfl, by simp⟩

/-- The device's registers stay canonical where the device is changed by an operation that keeps them so. -/
theorem State.MemoryCanonical.map {s t : State} (h : s.MemoryCanonical) (f : Device → Device)
    (keeps : ∀ d, Memory.wf d.regs → Memory.wf (f d).regs) (ht : t.device = s.device.map f) :
    t.MemoryCanonical := by
  intro d hd
  obtain ⟨d0, hd0, rfl⟩ := Option.map_eq_some_iff.mp (ht ▸ hd)
  exact keeps d0 (h d0 hd0)

/-- They stay so where the device is not changed. -/
theorem State.MemoryCanonical.same {s t : State} (h : s.MemoryCanonical) (ht : t.device = s.device) :
    t.MemoryCanonical := fun d hd => h d (ht ▸ hd)

theorem State.MemoryCanonical.exchanged {s : State} (h : s.MemoryCanonical) (tx : Frame) (delivered : Bool) :
    (s.exchanged tx delivered).MemoryCanonical := by
  cases delivered with
  | false => exact h.same rfl
  | true => exact h.map (Device.take tx) (fun d => d.take_wf tx) rfl

theorem State.MemoryCanonical.driveLine {s : State} (h : s.MemoryCanonical) (level : Level) :
    (s.driveLine level).MemoryCanonical := h.map (Device.lineMoves s.mode level) (fun d => d.lineMoves_wf _ _) rfl

theorem State.MemoryCanonical.perform {s : State} (h : s.MemoryCanonical) (op : MicroOp) :
    (perform op s).MemoryCanonical := by
  cases op with
  | xfer tx cap tag =>
    simp only [Machine.perform]
    rcases xfer_cases s tx cap tag with ⟨w, _, hx⟩ | ⟨info, delivered, _, hx⟩ | ⟨_, hx⟩ | ⟨_, hx⟩ <;> rw [hx]
    · exact (h.exchanged tx true).same (by simp)
    · exact (h.exchanged tx delivered).same rfl
    · exact h.same rfl
    · exact h
  | pin level => exact (h.driveLine level).same rfl
  | wait =>
    refine h.same ?_
    rcases waitOp_cases s with ⟨_, hw⟩ | ⟨_, hw⟩ | ⟨_, hw⟩ <;> simp [Machine.perform, hw]

theorem State.MemoryCanonical.cutShort {s : State} (h : s.MemoryCanonical) (delivered : Bool) :
    (s.cutShort delivered).MemoryCanonical := by
  unfold State.cutShort
  split
  · split
    · exact h.exchanged _ true
    · exact h.same rfl
  · exact h.same rfl
  · exact h
  · exact h

/-- UPC at a micro-operation does not wrap when it counts (R12). -/
theorem toNat_upc_succ (i : Instr) (dr : BitVec 16) (upc : BitVec 4) (op : MicroOp)
    (hop : (progOf i dr)[upc.toNat]? = some op) : (upc + 1).toNat = upc.toNat + 1 := by
  have inside : upc.toNat < (progOf i dr).length := (List.getElem?_eq_some_iff.mp hop).1
  have short := progOf_length_le i dr
  rw [BitVec.toNat_add]
  exact Nat.mod_eq_of_lt (by simp; omega)

/-- The end of a micro-operation leaves the block on track, whatever DR holds then: lengths and tags do not depend on
it. -/
theorem State.Advanced.onTrack {s t : State} {i : Instr} {op : MicroOp} (adv : s.Advanced op t) (hcr : t.cr = s.cr)
    (hd : decodeCommand s.cr = .ok i) (hop : (progOf i s.dr)[s.upc.toNat]? = some op)
    (hpend : s.pend = pendAfter ((progOf i s.dr).take s.upc.toNat)) : t.OnTrack := by
  intro _
  have inside : s.upc.toNat < (progOf i s.dr).length := (List.getElem?_eq_some_iff.mp hop).1
  have counted : t.upc.toNat = s.upc.toNat + 1 := adv.upc ▸ toNat_upc_succ i s.dr s.upc op hop
  refine ⟨i, hcr ▸ hd, ?_, ?_⟩
  · rw [counted, progOf_length i t.dr s.dr]; exact inside
  · rw [adv.pend, hpend, counted, pendAfter_progOf_take i _ t.dr s.dr]
    exact (pendAfter_take_succ _ _ _ hop).symm

/-- What the invariant says of the command that is running, in terms of the instruction CR decodes to. -/
theorem State.Inv.running {s : State} {i : Instr} (h : s.Inv) (hp : s.phase = .run)
    (hd : decodeCommand s.cr = .ok i) :
    s.upc.toNat ≤ (progOf i s.dr).length ∧ s.pend = pendAfter ((progOf i s.dr).take s.upc.toNat) := by
  obtain ⟨-, onTrack, -⟩ := h
  obtain ⟨j, hj, hle, hpend⟩ := onTrack hp
  cases hd.symm.trans hj
  exact ⟨hle, hpend⟩

/-- An idle, drained block with a canonical device meets the invariant. -/
theorem State.Inv.of_idle {t : State} (hp : t.phase = .idle) (hpend : t.pend = .none) (hupc : t.upc = 0)
    (hmem : t.MemoryCanonical) : t.Inv :=
  ⟨fun _ => ⟨hpend, hupc⟩, fun hrun => by simp [hp] at hrun, hmem⟩

/-- A running block that is on track, with a canonical device, meets the invariant. -/
theorem State.Inv.of_run {t : State} (hp : t.phase = .run) (htrack : t.OnTrack) (hmem : t.MemoryCanonical) : t.Inv :=
  ⟨fun hidle => by simp [hp] at hidle, htrack, hmem⟩

/-- Accept of a legal word keeps the invariant: UPC is 0 and the slot is empty, as it was. -/
theorem State.Inv.accept {s : State} {w : CmdWord} {i : Instr} (h : s.Inv) (hp : s.phase = .idle)
    (hd : decodeCommand w = .ok i) : (s.accept w).Inv := by
  obtain ⟨drained, -, hmem⟩ := h
  refine .of_run rfl (fun _ => ⟨i, hd, Nat.zero_le _, ?_⟩) (hmem.same rfl)
  exact (drained hp).1

/-- The micro-operation at UPC keeps the invariant. -/
theorem State.Inv.perform {s : State} {i : Instr} {op : MicroOp} (h : s.Inv) (hp : s.phase = .run)
    (hd : decodeCommand s.cr = .ok i) (hop : (progOf i s.dr)[s.upc.toNat]? = some op) : (perform op s).Inv := by
  obtain ⟨hle, hpend⟩ := h.running hp hd
  obtain ⟨-, -, hmem⟩ := h
  have hmem' := hmem.perform op
  have hcr := perform_cr op s
  rcases perform_cases op s with adv | held | aborted
  · exact .of_run (adv.phase.trans hp) (adv.onTrack hcr hd hop hpend) hmem'
  · refine .of_run (held.phase.trans hp) (fun _ => ⟨i, hcr ▸ hd, ?_, ?_⟩) hmem'
    · rw [held.upc, held.dr]; exact hle
    · rw [held.pend, held.upc, held.dr]; exact hpend
  · exact .of_idle aborted.phase aborted.pend aborted.upc hmem'

/-- Complete keeps it: every micro-program ends drained. -/
theorem State.Inv.complete {s : State} {i : Instr} (h : s.Inv) (hp : s.phase = .run)
    (hd : decodeCommand s.cr = .ok i) (hend : s.upc.toNat = (progOf i s.dr).length) (data : BitVec 16) :
    (s.complete data).Inv := by
  obtain ⟨-, hpend⟩ := h.running hp hd
  obtain ⟨-, -, hmem⟩ := h
  refine .of_idle rfl ?_ rfl (hmem.same rfl)
  rw [State.complete_pend, hpend, hend, List.take_length, pendAfter_progOf]

/-- Reset leads to it from any state whose device is canonical. -/
theorem State.Inv.applyReset {s : State} (hmem : s.MemoryCanonical) : s.applyReset.Inv :=
  .of_idle rfl rfl rfl ((hmem.driveLine 0).same rfl)

/-- Settles O40: over the kinds of step there are, each of which keeps the invariant. -/
theorem everyStepKeepsTheInvariant : Obligations.EveryStepKeepsTheInvariant := by
  unfold Obligations.EveryStepKeepsTheInvariant
  intro s t hinv hstep
  have hrst (l : List ResetLevel) : ({ s with rst := l } : State).Inv := hinv
  have hport (ws : List CmdWord) : ({ s with rst := s.rst.tail, offers := ws } : State).Inv := hinv
  rcases step_inversion s t hstep with
    ⟨delivered, rest, _, rfl⟩ |
    ⟨_, ⟨_, _, rfl⟩ | ⟨_, w, rest, e, _, _, rfl⟩ | ⟨hp, w, rest, i, _, hd, rfl⟩ | ⟨hp, i, op, hd, hop, rfl⟩ |
      ⟨hp, i, hd, hend, rfl⟩⟩
  · obtain ⟨-, -, hmem⟩ := hrst rest
    exact .applyReset (hmem.cutShort delivered)
  · exact hrst _
  · exact hport rest
  · exact (hport rest).accept hp hd
  · exact (hrst _).perform hp hd hop
  · exact (hrst _).complete hp hd hend (resultOf i s.dr)

/-- A step whose last new entry is a response ends in IDLE: no other entry is made by a step that ends in RUN. -/
theorem step_responds_idle (s t : State) (r : Response) (hstep : step s = .next t)
    (hlast : t.trace.getLast? = some (.responded r)) (hnew : t.trace ≠ s.trace) : t.phase = .idle := by
  rcases step_inversion s t hstep with
    ⟨delivered, rest, _, rfl⟩ |
    ⟨_, ⟨_, _, rfl⟩ | ⟨hp, w, rest, e, _, _, rfl⟩ | ⟨_, w, rest, i, _, _, rfl⟩ | ⟨_, i, op, _, _, rfl⟩ |
      ⟨_, i, _, _, rfl⟩⟩
  · rfl
  · exact absurd rfl hnew
  · exact hp
  · simp at hlast
  · rcases perform_cases op { s with rst := s.rst.tail } with adv | held | aborted
    · obtain ⟨e, htrace, hno⟩ := adv.logged
      rw [htrace, List.getLast?_concat] at hlast
      exact absurd (Option.some.inj hlast) (hno r)
    · exact absurd held.trace hnew
    · exact aborted.phase
  · rfl

/-- Settles O44: the step ends in IDLE, and the invariant, which it keeps, says that IDLE is drained. -/
theorem everyResponseFindsTheBlockDrained : Obligations.EveryResponseFindsTheBlockDrained := by
  unfold Obligations.EveryResponseFindsTheBlockDrained
  intro s t r hinv hstep hlast hnew
  have hidle := step_responds_idle s t r hstep hlast hnew
  obtain ⟨drained, -, -⟩ := everyStepKeepsTheInvariant s t hinv hstep
  exact ⟨hidle, drained hidle⟩

end Sys2Proof.Machine

/-! ### Reset, MODE, DR and the port -/

namespace Sys2Proof.Machine

/-- A micro-operation is due only in RUN (R12). -/
theorem State.run_of_microOp? {s : State} {op : MicroOp} (h : s.microOp? = some op) : s.phase = .run := by
  unfold State.microOp? at h
  cases hp : s.phase with
  | run => rfl
  | idle => simp [hp] at h

/-- In RUN it is the one the running command has at UPC. -/
theorem State.microOp?_run (s : State) (i : Instr) (hp : s.phase = .run) (hd : decodeCommand s.cr = .ok i) :
    s.microOp? = (progOf i s.dr)[s.upc.toNat]? := by
  simp only [State.microOp?, hp, hd]

/-- What a reset cuts at an exchange (R151, U19). -/
theorem State.cutShort_xfer {s : State} {tx : Frame} {cap : Capture} {tag : Pend} (delivered : Bool)
    (h : s.microOp? = some (.xfer tx cap tag)) :
    s.cutShort delivered = if delivered then s.exchanged tx true else s.waitTransport := by
  simp only [State.cutShort, h]

/-- What it cuts at a wait (R148). -/
theorem State.cutShort_wait {s : State} (delivered : Bool) (h : s.microOp? = some .wait) :
    s.cutShort delivered = s.waitSettle := by
  simp only [State.cutShort, h]

/-- Elsewhere there is nothing to cut. -/
theorem State.cutShort_other {s : State} (delivered : Bool) (notXfer : ∀ tx cap tag, s.microOp? ≠ some (.xfer tx cap tag))
    (notWait : s.microOp? ≠ some .wait) : s.cutShort delivered = s := by
  unfold State.cutShort
  split
  · rename_i h; exact absurd h (notXfer _ _ _)
  · rename_i h; exact absurd h notWait
  · rfl
  · rfl

/-- Settles O15: the step is the reset of the state in which what was in flight is cut, by what was in flight. -/
theorem resetAppliesFromEveryState : Obligations.ResetAppliesFromEveryState := by
  unfold Obligations.ResetAppliesFromEveryState
  intro s delivered rest hr
  have cutOp : ({ s with rst := rest } : State).microOp? = s.microOp? := rfl
  rw [step_reset s delivered rest hr]
  refine ⟨fun notXfer => ?_, fun tx cap tag hop => ?_⟩
  · by_cases hw : s.microOp? = some .wait
    · rw [State.cutShort_wait delivered (cutOp.trans hw), if_pos hw]
      exact ⟨_, _, _, rfl⟩
    · rw [State.cutShort_other (s := { s with rst := rest }) delivered notXfer hw, if_neg hw]
      exact ⟨_, _, _, rfl⟩
  · have running : s.busy = true := by simp [State.busy, State.run_of_microOp? hop]
    have abandons : Event.resetDone true = .resetDone s.busy := by rw [running]
    rw [State.cutShort_xfer delivered (cutOp.trans hop), abandons]
    cases delivered with
    | true => exact ⟨_, _, _, rfl⟩
    | false =>
      simp only [Bool.false_eq_true, if_false, List.append_nil]
      exact ⟨_, _, _, rfl⟩

/-- Only a pin move sets MODE (R16). -/
theorem perform_mode (op : MicroOp) (s : State) :
    (∃ level, op = .pin level ∧ (perform op s).mode = level) ∨ (perform op s).mode = s.mode := by
  cases op with
  | pin level => exact .inl ⟨level, rfl, rfl⟩
  | xfer tx cap tag =>
    refine .inr ?_
    rcases xfer_cases s tx cap tag with ⟨w, _, h⟩ | ⟨info, delivered, _, h⟩ | ⟨_, h⟩ | ⟨_, h⟩ <;> simp [perform, h]
  | wait =>
    refine .inr ?_
    rcases waitOp_cases s with ⟨_, h⟩ | ⟨_, h⟩ | ⟨_, h⟩ <;> simp [perform, h]

/-- The pin moves there are: SLEEP's to 0 and ACTIVE's to 1 (R120, R121). -/
theorem pin_mem_progOf (i : Instr) (dr : BitVec 16) (level : Level) (h : .pin level ∈ progOf i dr) :
    (∃ a d, i = .sleep a d ∧ level = 0) ∨ (∃ a d, i = .active a d ∧ level = 1) := by
  cases i with
  | sleep a d => simp [progOf, sleepProg, writeRegSeq] at h; exact .inl ⟨a, d, rfl, h⟩
  | active a d => simp [progOf, activeProg, readRegSeq, writeRegSeq] at h; exact .inr ⟨a, d, rfl, h⟩
  | setch a d => simp only [progOf, setchProg] at h; split at h <;> simp [readRegSeq, writeRegSeq] at h
  | clrerr a d => simp only [progOf, clrerrProg] at h; split at h <;> simp [writeRegSeq] at h
  | write | readreq | nop | diagreq | rdreg | wrreg | rddiag | clrall | init =>
    simp [progOf, rdregProg, wrregProg, rddiagProg, clrallProg, initProg, readRegSeq, writeRegSeq, readDiagSeq] at h

/-- Settles O48: but for reset and a pin move no kind of step writes MODE. -/
theorem modeMovesOnlyByPinOrReset : Obligations.ModeMovesOnlyByPinOrReset := by
  unfold Obligations.ModeMovesOnlyByPinOrReset
  intro s t hstep hmode
  rcases step_inversion s t hstep with
    ⟨delivered, rest, hr, rfl⟩ |
    ⟨_, ⟨_, _, rfl⟩ | ⟨_, w, rest, e, _, _, rfl⟩ | ⟨_, w, rest, i, _, _, rfl⟩ | ⟨hp, i, op, hd, hop, rfl⟩ |
      ⟨_, i, _, _, rfl⟩⟩
  · exact .inl ⟨⟨delivered, rest, hr⟩, rfl⟩
  · exact absurd rfl hmode
  · exact absurd rfl hmode
  · exact absurd rfl hmode
  · rcases perform_mode op { s with rst := s.rst.tail } with ⟨level, rfl, hlevel⟩ | hsame
    · rcases pin_mem_progOf i s.dr level (List.mem_of_getElem? hop) with ⟨a, d, rfl, rfl⟩ | ⟨a, d, rfl, rfl⟩
      · exact .inr (.inl ⟨hp, a, d, hd, hlevel⟩)
      · exact .inr (.inr ⟨hp, a, d, hd, hlevel⟩)
    · exact absurd hsame hmode
  · exact absurd rfl hmode

/-- A micro-operation that changes DR is an exchange that returned, with a capture (R14). -/
theorem perform_changes_dr (op : MicroOp) (s : State) (h : (perform op s).dr ≠ s.dr) :
    ∃ tx cap tag w, op = .xfer tx cap tag ∧ s.answer = .rx w ∧
      ((cap = .data8 ∧ (perform op s).dr = zext16 (dec w)) ∨ (cap = .data16 ∧ (perform op s).dr = w)) := by
  cases op with
  | pin level => exact absurd rfl h
  | wait =>
    refine absurd ?_ h
    rcases waitOp_cases s with ⟨_, hw⟩ | ⟨_, hw⟩ | ⟨_, hw⟩ <;> simp [perform, hw]
  | xfer tx cap tag =>
    rcases xfer_cases s tx cap tag with ⟨w, hrx, hx⟩ | ⟨info, delivered, _, hx⟩ | ⟨_, hx⟩ | ⟨_, hx⟩
    · refine ⟨tx, cap, tag, w, rfl, hrx, ?_⟩
      cases cap with
      | drop => exact absurd (by simp [perform, hx]) h
      | data8 => exact .inl ⟨rfl, by simp [perform, hx]⟩
      | data16 => exact .inr ⟨rfl, by simp [perform, hx, decDiag]⟩
    all_goals exact absurd (by simp [perform, hx]) h

/-- The rows of R98's table: PEND before an exchange, its capture, PEND after it. -/
def exchangeTable : List (Pend × Capture × Pend) :=
  [(.none, .drop, .wrStatus), (.wrStatus, .drop, .none), (.none, .drop, .rdData), (.rdData, .data8, .rdTrail),
    (.rdTrail, .drop, .none), (.none, .drop, .diagWord), (.diagWord, .data16, .none)]

/-- An exchange with PEND = `p` before it is a row of the table. -/
def MicroOp.FitsTable (p : Pend) : MicroOp → Prop
  | .xfer _ cap tag => (p, cap, tag) ∈ exchangeTable
  | .pin _ => True
  | .wait => True

/-- From PEND = `p` on, every exchange of `ops` is a row of the table. -/
def FollowsTable (p : Pend) : List MicroOp → Prop
  | [] => True
  | op :: ops => op.FitsTable p ∧ FollowsTable (op.tagFrom p) ops

/-- What `FollowsTable` says of one micro-operation, in the middle of the run. -/
theorem FollowsTable.fits {p : Pend} {ops : List MicroOp} (h : FollowsTable p ops) (k : Nat) (op : MicroOp)
    (hop : ops[k]? = some op) : op.FitsTable ((ops.take k).foldl MicroOp.tagFrom p) := by
  induction ops generalizing p k with
  | nil => simp at hop
  | cons first rest ih =>
    obtain ⟨fitsFirst, followsRest⟩ := h
    cases k with
    | zero =>
      cases Option.some.inj hop
      exact fitsFirst
    | succ k => exact ih followsRest k hop

/-- PEND after a run of micro-operations, by `MicroOp.tagFrom`. -/
theorem pendAfter_eq_foldl (ops : List MicroOp) : pendAfter ops = ops.foldl MicroOp.tagFrom .none := by
  have sameStep : (fun (p : Pend) (op : MicroOp) => match op with
      | .xfer _ _ tag => tag
      | .pin _ => p
      | .wait => p) = MicroOp.tagFrom := by
    funext p op
    cases op <;> rfl
  exact congrArg (fun f => List.foldl f Pend.none ops) sameStep

/-- Every micro-program follows R98's table from an empty slot. -/
theorem progOf_followsTable (i : Instr) (dr : BitVec 16) : FollowsTable .none (progOf i dr) := by
  refine progOf_cases (FollowsTable .none) i dr ?_ ?_ ?_ ?_ ?_ ?_ ?_ ?_ <;> intros <;>
    simp [FollowsTable, MicroOp.FitsTable, MicroOp.tagFrom, exchangeTable, writeRegSeq, readRegSeq, readDiagSeq,
      sleepProg, activeProg, initProg]

/-- R98: the exchange at `k`, with PEND before it, is a row of the table. -/
theorem progOf_exchange_mem_table (i : Instr) (dr : BitVec 16) (k : Nat) (tx : Frame) (cap : Capture) (tag : Pend)
    (hop : (progOf i dr)[k]? = some (.xfer tx cap tag)) :
    (pendAfter ((progOf i dr).take k), cap, tag) ∈ exchangeTable := by
  rw [pendAfter_eq_foldl]
  exact (progOf_followsTable i dr).fits k _ hop

/-- Settles O49: of the kinds of step only reset and a capturing exchange write DR, and R98's table says which PEND
stands before a capture. -/
theorem drIsWrittenOnlyByACapture : Obligations.DrIsWrittenOnlyByACapture := by
  unfold Obligations.DrIsWrittenOnlyByACapture
  intro s t hinv hstep hdr
  rcases step_inversion s t hstep with
    ⟨delivered, rest, hr, _⟩ |
    ⟨_, ⟨_, _, rfl⟩ | ⟨_, w, rest, e, _, _, rfl⟩ | ⟨_, w, rest, i, _, _, rfl⟩ | ⟨hp, i, op, hd, hop, rfl⟩ |
      ⟨_, i, _, _, rfl⟩⟩
  · exact .inl ⟨delivered, rest, hr⟩
  · exact absurd rfl hdr
  · exact absurd rfl hdr
  · exact absurd rfl hdr
  · obtain ⟨tx, _, tag, w, rfl, hrx, hcap⟩ := perform_changes_dr op { s with rst := s.rst.tail } hdr
    have row := progOf_exchange_mem_table i s.dr _ tx _ tag hop
    rw [← (hinv.running hp hd).2] at row
    refine .inr ⟨hp, w, hrx, ?_⟩
    rcases hcap with ⟨rfl, hdata⟩ | ⟨rfl, hdata⟩
    · exact .inl ⟨(by simpa [exchangeTable] using row : s.pend = .rdData ∧ tag = .rdTrail).1, hdata⟩
    · exact .inr ⟨(by simpa [exchangeTable] using row : s.pend = .diagWord ∧ tag = .none).1, hdata⟩
  · exact absurd rfl hdr

/-- A micro-operation does not look at the port (R46). -/
theorem perform_withOffers (op : MicroOp) (s : State) (ws : List CmdWord) :
    perform op { s with offers := ws } = { perform op s with offers := ws } := by
  cases op with
  | pin level => rfl
  | wait =>
    simp only [perform, waitOp]
    split <;> rfl
  | xfer tx cap tag =>
    have sameAnswer : ({ s with offers := ws } : State).answer = s.answer := rfl
    simp only [perform, xfer, sameAnswer]
    cases s.answer with
    | rx w => cases cap <;> rfl
    | fault info delivered => rfl
    | pending => rfl
    | never => rfl

/-- Settles O50: in RUN with `rst` low the step is a micro-operation or Complete, and neither looks at the port. -/
theorem runningBlockIgnoresThePort : Obligations.RunningBlockIgnoresThePort := by
  unfold Obligations.RunningBlockIgnoresThePort
  intro s t hrun hlow hstep
  have low := s.rstLow_iff.mp hlow
  rcases step_inversion s t hstep with
    ⟨delivered, rest, hr, _⟩ |
    ⟨_, ⟨hp, _⟩ | ⟨hp, _⟩ | ⟨hp, _⟩ | ⟨_, i, op, hd, hop, rfl⟩ | ⟨_, i, hd, hend, rfl⟩⟩
  · exact absurd hr (low delivered rest)
  · exact absurd (hrun.symm.trans hp) (by decide)
  · exact absurd (hrun.symm.trans hp) (by decide)
  · exact absurd (hrun.symm.trans hp) (by decide)
  · refine ⟨perform_cr _ _, perform_offers _ _, fun ws => ?_⟩
    rw [step_perform { s with offers := ws } low i op hrun hd hop]
    exact congrArg Host.Outcome.next (perform_withOffers op { s with rst := s.rst.tail } ws)
  · exact ⟨rfl, rfl, fun ws => step_complete { s with offers := ws } low i hrun hd hend⟩

end Sys2Proof.Machine

/-! ### CR and DR in IDLE are never observed -/

namespace Sys2Proof.Machine

/-- A micro-operation that keeps something of what it receives (R90). -/
def MicroOp.captures : MicroOp → Bool
  | .xfer _ .drop _ => false
  | .xfer _ .data8 _ => true
  | .xfer _ .data16 _ => true
  | .pin _ => false
  | .wait => false

/-- The first `k` micro-operations of `i` have captured nothing, so that DR holds what it held at Accept. -/
def DrUnread (i : Instr) (dr : BitVec 16) (k : Nat) : Prop :=
  ∀ op ∈ (progOf i dr).take k, op.captures = false

/-- Up to its first capture a micro-program does not depend on DR: SETCH and ACTIVE compute their write frame after the
third micro-operation and the fifth, behind the capture (R110, R121). -/
theorem DrUnread.progOf_eq {i : Instr} {dr : BitVec 16} {k : Nat} (h : DrUnread i dr k) (dr' : BitVec 16) :
    (progOf i dr')[k]? = (progOf i dr)[k]? := by
  cases i with
  | setch a d =>
    simp only [DrUnread, progOf, setchProg] at h ⊢
    split
    · rfl
    · next inRange =>
      rw [if_neg inRange] at h
      match k with
      | 0 | 1 | 2 => rfl
      | k + 3 => exact absurd (h (.xfer nopFrame .data8 .rdTrail) (by simp [readRegSeq])) (by decide)
  | active a d =>
    simp only [DrUnread, progOf, activeProg] at h ⊢
    match k with
    | 0 | 1 | 2 | 3 | 4 => rfl
    | k + 5 => exact absurd (h (.xfer nopFrame .data8 .rdTrail) (by simp [readRegSeq])) (by decide)
  | write | readreq | nop | diagreq | rdreg | wrreg | rddiag | clrerr | clrall | sleep | init => rfl

/-- A command that captures nothing responds without DR: RDREG and RDDIAG, which respond with it, capture it. -/
theorem DrUnread.resultOf_eq {i : Instr} {dr : BitVec 16} (h : DrUnread i dr (progOf i dr).length) (dr' : BitVec 16) :
    resultOf i dr' = resultOf i dr := by
  rw [DrUnread, List.take_length] at h
  cases i with
  | rdreg a d => exact absurd (h (.xfer nopFrame .data8 .rdTrail) (by simp [progOf, rdregProg, readRegSeq])) (by decide)
  | rddiag a d => exact absurd (h (.xfer nopFrame .data16 .none) (by simp [progOf, rddiagProg, readDiagSeq])) (by decide)
  | write | readreq | nop | diagreq | wrreg | setch | clrerr | clrall | sleep | active | init => rfl

/-- One more micro-operation without a capture leaves DR unread. -/
theorem DrUnread.succ {i : Instr} {dr : BitVec 16} {k : Nat} (h : DrUnread i dr k) {op : MicroOp}
    (hop : (progOf i dr)[k]? = some op) (keepsNothing : op.captures = false) : DrUnread i dr (k + 1) := by
  intro x hx
  rw [List.take_add_one, hop] at hx
  rcases List.mem_append.mp hx with hx | hx
  · exact h x hx
  · rw [Option.toList_some, List.mem_singleton] at hx
    exact hx ▸ keepsNothing

/-- What another DR makes of a micro-operation: nothing after a capture; else DR is carried along, and the
micro-operation is none that captures, or did not end. -/
theorem perform_withDr (op : MicroOp) (s : State) (d : BitVec 16) :
    perform op { s with dr := d } = perform op s ∨
    (perform op { s with dr := d } = { perform op s with dr := d } ∧ (perform op s).dr = s.dr ∧
      (op.captures = false ∨ s.Held (perform op s) ∨ (perform op s).Aborted)) := by
  cases op with
  | pin level => exact .inr ⟨rfl, rfl, .inl rfl⟩
  | wait =>
    refine .inr ⟨?_, ?_, .inl rfl⟩
    · simp only [perform, waitOp]
      split <;> rfl
    · rcases waitOp_cases s with ⟨_, h⟩ | ⟨_, h⟩ | ⟨_, h⟩ <;> simp [perform, h]
  | xfer tx cap tag =>
    have sameAnswer : ({ s with dr := d } : State).answer = s.answer := rfl
    simp only [perform, xfer, sameAnswer]
    cases s.answer with
    | rx w =>
      cases cap with
      | drop => exact .inr ⟨rfl, rfl, .inl rfl⟩
      | data8 => exact .inl rfl
      | data16 => exact .inl rfl
    | fault info delivered => exact .inr ⟨rfl, rfl, .inr (.inr ⟨rfl, rfl, rfl⟩)⟩
    | pending => exact .inr ⟨rfl, rfl, .inr (.inl ⟨rfl, rfl, rfl, rfl, rfl⟩)⟩
    | never => exact .inr ⟨rfl, rfl, .inr (.inl ⟨rfl, rfl, rfl, rfl, rfl⟩)⟩

/-- Two states that differ at most in CR and DR, in DR alone once a command runs, and there only while it has captured
nothing. -/
inductive State.Alike : State → State → Prop
  | same (s : State) : State.Alike s s
  | idle (s : State) (c : CmdWord) (d : BitVec 16) (hp : s.phase = .idle) : State.Alike s { s with cr := c, dr := d }
  | running (s : State) (d : BitVec 16) (i : Instr) (hp : s.phase = .run) (hd : decodeCommand s.cr = .ok i)
      (unread : DrUnread i s.dr s.upc.toNat) : State.Alike s { s with dr := d }

/-- What the statement asks of two such states. -/
theorem State.Alike.observed {s s' : State} (h : s.Alike s') :
    s'.trace = s.trace ∧ s'.phase = s.phase ∧ s'.upc = s.upc ∧ s'.pend = s.pend ∧ s'.mode = s.mode ∧
      s'.device = s.device := by
  cases h <;> exact ⟨rfl, rfl, rfl, rfl, rfl, rfl⟩

/-- Reset overwrites CR and DR, so it makes such states equal where it cuts the same (R150). -/
theorem State.cutShort_applyReset_withCrDr (s : State) (c : CmdWord) (d : BitVec 16) (delivered : Bool)
    (sameOp : ({ s with cr := c, dr := d } : State).microOp? = s.microOp?) :
    (({ s with cr := c, dr := d } : State).cutShort delivered).applyReset = (s.cutShort delivered).applyReset := by
  simp only [State.cutShort, sameOp]
  split
  · cases delivered <;> rfl
  · rfl
  · rfl
  · rfl

/-- A step from IDLE and the same step with another CR and DR. -/
theorem step_alike_idle (s t : State) (c : CmdWord) (d : BitVec 16) (hp : s.phase = .idle) (hstep : step s = .next t) :
    ∃ t', step { s with cr := c, dr := d } = .next t' ∧ t.Alike t' := by
  rcases step_inversion s t hstep with
    ⟨delivered, rest, hr, rfl⟩ |
    ⟨low, ⟨_, ho, rfl⟩ | ⟨_, w, rest, e, ho, hd, rfl⟩ | ⟨_, w, rest, i, ho, hd, rfl⟩ | ⟨hrun, _⟩ | ⟨hrun, _⟩⟩
  · refine ⟨_, step_reset { s with cr := c, dr := d } delivered rest hr, ?_⟩
    have none_due : ({ s with rst := rest, cr := c, dr := d } : State).microOp? =
        ({ s with rst := rest } : State).microOp? := by simp only [State.microOp?, hp]
    rw [State.cutShort_applyReset_withCrDr { s with rst := rest } c d delivered none_due]
    exact .same _
  · exact ⟨_, step_waiting { s with cr := c, dr := d } low hp ho, .idle { s with rst := s.rst.tail } c d hp⟩
  · exact ⟨_, step_illegal { s with cr := c, dr := d } low w rest e hp ho hd,
      .idle (({ s with rst := s.rst.tail, offers := rest } : State).raise .illegalCommand) c d hp⟩
  · refine ⟨_, step_accept { s with cr := c, dr := d } low w rest i hp ho hd,
      .running (({ s with rst := s.rst.tail, offers := rest } : State).accept w) d i rfl hd ?_⟩
    intro op hop
    simp at hop
  · exact absurd (hp.symm.trans hrun) (by decide)
  · exact absurd (hp.symm.trans hrun) (by decide)

/-- The micro-operation at UPC leaves states alike that differ in an unread DR. -/
theorem alike_perform (s : State) (d : BitVec 16) (i : Instr) (op : MicroOp) (hp : s.phase = .run)
    (hd : decodeCommand s.cr = .ok i) (unread : DrUnread i s.dr s.upc.toNat)
    (hop : (progOf i s.dr)[s.upc.toNat]? = some op) : (perform op s).Alike (perform op { s with dr := d }) := by
  have hcr : decodeCommand (perform op s).cr = .ok i := (perform_cr op s).symm ▸ hd
  rcases perform_withDr op s d with captured | ⟨carried, hdr, how⟩
  · rw [captured]; exact .same _
  rw [carried]
  have staysUnread (hupc : (perform op s).upc = s.upc) : DrUnread i (perform op s).dr (perform op s).upc.toNat := by
    rw [hdr, hupc]; exact unread
  rcases perform_cases op s with adv | held | aborted
  · refine .running _ d i (adv.phase.trans hp) hcr ?_
    rcases how with keepsNothing | held | aborted
    · rw [hdr, adv.upc, toNat_upc_succ i s.dr s.upc op hop]
      exact unread.succ hop keepsNothing
    · exact staysUnread held.upc
    · exact absurd (aborted.phase.symm.trans (adv.phase.trans hp)) (by decide)
  · exact .running _ d i (held.phase.trans hp) hcr (staysUnread held.upc)
  · exact .idle _ (perform op s).cr d aborted.phase

/-- A step of a command that has captured nothing yet and the same step with another DR. -/
theorem step_alike_running (s t : State) (d : BitVec 16) (i : Instr) (hp : s.phase = .run)
    (hd : decodeCommand s.cr = .ok i) (unread : DrUnread i s.dr s.upc.toNat) (hstep : step s = .next t) :
    ∃ t', step { s with dr := d } = .next t' ∧ t.Alike t' := by
  rcases step_inversion s t hstep with
    ⟨delivered, rest, hr, rfl⟩ |
    ⟨low, ⟨hidle, _⟩ | ⟨hidle, _⟩ | ⟨hidle, _⟩ | ⟨_, j, op, hj, hop, rfl⟩ | ⟨_, j, hj, hend, rfl⟩⟩
  · refine ⟨_, step_reset { s with dr := d } delivered rest hr, ?_⟩
    have sameOp : ({ s with rst := rest, dr := d } : State).microOp? = ({ s with rst := rest } : State).microOp? := 
      (State.microOp?_run { s with rst := rest, dr := d } i hp hd).trans ((unread.progOf_eq d).trans
        (State.microOp?_run { s with rst := rest } i hp hd).symm)
    rw [State.cutShort_applyReset_withCrDr { s with rst := rest } s.cr d delivered sameOp]
    exact .same _
  · exact absurd (hp.symm.trans hidle) (by decide)
  · exact absurd (hp.symm.trans hidle) (by decide)
  · exact absurd (hp.symm.trans hidle) (by decide)
  · cases hd.symm.trans hj
    refine ⟨_, step_perform { s with dr := d } low i op hp hd ((unread.progOf_eq d).trans hop), ?_⟩
    exact alike_perform { s with rst := s.rst.tail } d i op hp hd unread hop
  · cases hd.symm.trans hj
    refine ⟨_, step_complete { s with dr := d } low i hp hd (hend.trans (progOf_length i s.dr d)), ?_⟩
    rw [show resultOf i d = resultOf i s.dr from DrUnread.resultOf_eq (hend ▸ unread) d]
    exact .idle (({ s with rst := s.rst.tail } : State).complete (resultOf i s.dr)) s.cr d rfl

/-- Alike states step alike. -/
theorem State.Alike.step {s s' t : State} (h : s.Alike s') (hstep : Machine.step s = .next t) :
    ∃ t', Machine.step s' = .next t' ∧ t.Alike t' := by
  cases h with
  | same => exact ⟨t, hstep, .same t⟩
  | idle c d hp => exact step_alike_idle s t c d hp hstep
  | running d i hp hd unread => exact step_alike_running s t d i hp hd unread hstep

/-- A run takes its first step, then the others. -/
theorem run_succ {s t : State} (n : Nat) (h : step s = .next t) :
    Host.Core.run Sys2Proof.core (n + 1) s = Host.Core.run Sys2Proof.core n t := by
  simp only [Host.Core.run, Host.Check.core_step, h]

/-- A relation that steps keep is kept by runs. -/
theorem run_simulates (R : State → State → Prop)
    (keeps : ∀ s s' t, R s s' → step s = .next t → ∃ t', step s' = .next t' ∧ R t t') (n : Nat) (s s' t : State)
    (h : R s s') (hrun : Host.Core.run Sys2Proof.core n s = .next t) :
    ∃ t', Host.Core.run Sys2Proof.core n s' = .next t' ∧ R t t' := by
  induction n generalizing s s' with
  | zero =>
    cases hrun
    exact ⟨s', rfl, h⟩
  | succ n ih =>
    cases hs : step s with
    | next u =>
      obtain ⟨u', hs', hu⟩ := keeps s s' u h hs
      rw [run_succ n hs] at hrun
      rw [run_succ n hs']
      exact ih u u' hu hrun
    | fault r => simp only [Host.Core.run, Host.Check.core_step, hs] at hrun; cases hrun
    | refused r => simp only [Host.Core.run, Host.Check.core_step, hs] at hrun; cases hrun

/-- Settles O46: the two states are alike, alike states step alike, and of alike states the same is observed. -/
theorem oldCrAndDrAreNeverObserved : Obligations.OldCrAndDrAreNeverObserved := by
  unfold Obligations.OldCrAndDrAreNeverObserved
  intro n s t c d hp hrun
  obtain ⟨t', hrun', alike⟩ :=
    run_simulates State.Alike (fun _ _ _ h hstep => h.step hstep) n s _ t (.idle s c d hp) hrun
  exact ⟨t', hrun', alike.observed⟩

end Sys2Proof.Machine

/-! ### Commands made of register writes, with the assumed device at the far end -/

namespace Sys2Proof.Machine

/-- The command `i` is running in `s` at its micro-operation `k`, with `dr` in DR and the device `d` alone at the far
end. -/
structure State.RunsAt (s : State) (k : Nat) (dr : BitVec 16) (d : Device) : Prop where
  phase : s.phase = .run
  upc : s.upc.toNat = k
  dr : s.dr = dr
  farEnd : s.FarEndIs d

/-- Accept starts a command at its first micro-operation (R91). -/
theorem exec_accept_runsAt (i : Instr) (hc : i.isCommand = true) (s : State) (d : Device) (hp : s.phase = .idle)
    (far : s.FarEndIs d) : ∃ t, exec i s = .next t ∧ t.RunsAt 0 s.dr d :=
  ⟨s.accept (wordOf i), by rw [exec_command s i hc, stepCommand_idle _ _ _ _ hp], rfl, rfl, rfl, far⟩

/-- An exchange that drops what it receives goes on to the next micro-operation, and the device takes the frame. -/
theorem State.RunsAt.exec_drop {s : State} {k : Nat} {dr : BitVec 16} {d : Device} (h : s.RunsAt k dr d) (i : Instr)
    (hc : i.isCommand = true) (tx : Frame) (tag : Pend) (hop : (progOf i dr)[k]? = some (.xfer tx .drop tag)) :
    ∃ t, exec i s = .next t ∧ t.RunsAt (k + 1) dr (d.take tx) := by
  obtain ⟨hp, rfl, rfl, far⟩ := h
  obtain ⟨hx, far'⟩ := xfer_farEnd d s far tx .drop tag
  refine ⟨_, exec_perform i s _ hc hp hop, ?_, ?_, ?_, far'⟩
  · simp only [perform, hx]; exact hp
  · simp only [perform, hx]; exact toNat_upc_succ i s.dr s.upc _ hop
  · simp only [perform, hx]; rfl

/-- A write taken by the device leaves no debt (R40). -/
theorem Device.takeWrite_owed (d : Device) (a : RegAddr) (v : Byte) : (d.takeWrite a v).owed = none := by
  unfold Device.takeWrite
  split
  · rfl
  · split <;> rfl

/-- What a device awake and quiet makes of `WriteRegSeq(a, v)` (R92): the write, the drain frame changing nothing. -/
theorem Device.take_writeRegSeq (d : Device) (a v : Byte) (awake : d.asleep = false) (quiet : d.changes = []) :
    (d.take (encW a v)).take nopFrame = d.takeWrite (a.setWidth 6) v := by
  obtain ⟨-, quiet'⟩ := d.take_quiet (encW a v) awake quiet
  rw [Device.take_nop _ quiet', d.take_encW a v awake quiet, ← d.takeWrite_owed (a.setWidth 6) v]

/-- Running `WriteRegSeq(a, v)` (R92): the device has taken the write. -/
theorem State.RunsAt.execRepeat_writeRegSeq {s : State} {k : Nat} {dr : BitVec 16} {d : Device} (h : s.RunsAt k dr d)
    (i : Instr) (hc : i.isCommand = true) (a v : Byte) (pre post : List MicroOp)
    (hprog : progOf i dr = pre ++ (writeRegSeq a v ++ post)) (hk : pre.length = k) (n : Nat) :
    ∃ t, execRepeat i (n + 2) s = execRepeat i n t ∧ t.RunsAt (k + 2) dr (d.takeWrite (a.setWidth 6) v) := by
  have first : (progOf i dr)[k]? = some (.xfer (encW a v) .drop .wrStatus) := by
    rw [hprog, ← hk, List.getElem?_append_right le_rfl, Nat.sub_self]; rfl
  have second : (progOf i dr)[k + 1]? = some (.xfer nopFrame .drop .none) := by
    rw [hprog, ← hk, List.getElem?_append_right (Nat.le_add_right _ 1), Nat.add_sub_cancel_left]; rfl
  obtain ⟨-, -, awake, quiet⟩ := h.farEnd
  obtain ⟨t, ht, atNext⟩ := h.exec_drop i hc _ _ first
  obtain ⟨u, hu, atEnd⟩ := atNext.exec_drop i hc _ _ second
  rw [d.take_writeRegSeq a v awake quiet] at atEnd
  exact ⟨u, by rw [execRepeat_succ i _ s t ht, execRepeat_succ i _ t u hu], atEnd⟩

/-- Register writes one after the other: the micro-operations. -/
def writeSeqs (writes : List (Byte × Byte)) : List MicroOp := writes.flatMap fun w => writeRegSeq w.1 w.2

/-- The device after it took these writes, in order. -/
def Device.takeWrites (writes : List (Byte × Byte)) (d : Device) : Device :=
  writes.foldl (fun d w => d.takeWrite (w.1.setWidth 6) w.2) d

/-- Running the writes that stand at `k` to the end of the micro-program: the device has taken them all. -/
theorem State.RunsAt.execRepeat_writeSeqs (i : Instr) (hc : i.isCommand = true) (dr : BitVec 16) (n : Nat)
    (writes : List (Byte × Byte)) {s : State} {d : Device} (pre : List MicroOp) (h : s.RunsAt pre.length dr d)
    (hprog : progOf i dr = pre ++ writeSeqs writes) :
    ∃ t, execRepeat i (n + 2 * writes.length) s = execRepeat i n t ∧
      t.RunsAt (progOf i dr).length dr (d.takeWrites writes) := by
  induction writes generalizing s d pre with
  | nil => exact ⟨s, rfl, by simpa [hprog, writeSeqs, Device.takeWrites] using h⟩
  | cons w rest ih =>
    have hw : progOf i dr = pre ++ (writeRegSeq w.1 w.2 ++ writeSeqs rest) := by
      rw [hprog, writeSeqs, List.flatMap_cons, ← writeSeqs]
    obtain ⟨t, ht, atRest⟩ := h.execRepeat_writeRegSeq i hc w.1 w.2 pre _ hw rfl (n + 2 * rest.length)
    have hlen : (pre ++ writeRegSeq w.1 w.2).length = pre.length + 2 := by simp [writeRegSeq]
    obtain ⟨u, hu, atEnd⟩ := ih (pre ++ writeRegSeq w.1 w.2) (hlen ▸ atRest) (by rw [hw, List.append_assoc])
    exact ⟨u, ht.trans hu, atEnd⟩

/-- A command that is register writes and nothing else, from Accept to its response: the device has taken the
writes. -/
theorem execRepeat_writesOnly (i : Instr) (hc : i.isCommand = true) (s : State) (d : Device)
    (writes : List (Byte × Byte)) (hp : s.phase = .idle) (far : s.FarEndIs d)
    (hprog : progOf i s.dr = writeSeqs writes) :
    ∃ t, execRepeat i (2 * writes.length + 2) s = .next t ∧ t.device = some (d.takeWrites writes) := by
  obtain ⟨t, ht, atStart⟩ := exec_accept_runsAt i hc s d hp far
  obtain ⟨u, hu, atEnd⟩ := State.RunsAt.execRepeat_writeSeqs i hc s.dr 1 writes [] atStart hprog
  obtain ⟨hrun, hupc, hdr, -, isDevice, -, -⟩ := atEnd
  have completes : exec i u = .next (u.complete (resultOf i u.dr)) := by
    rw [exec_command u i hc]
    exact stepCommand_complete _ _ _ u hrun (hdr ▸ hupc)
  refine ⟨u.complete (resultOf i u.dr), ?_, isDevice⟩
  rw [execRepeat_succ i _ s t ht, Nat.add_comm, hu, execRepeat_succ i 0 u _ completes]
  rfl

/-! ### The latches of HWCR_OCL -/

/-- Clearing one channel's bit leaves the others (R81, R23). -/
theorem getLsbD_and_not_channelBit (old : Byte) (i : BitVec 3) (k : Nat) :
    (old &&& ~~~channelBit i).getLsbD k = (old.getLsbD k && decide (k ≠ i.toNat)) := by
  have bit : (channelBit i).getLsbD k = decide (k = i.toNat) := by
    have hi : i.toNat < 8 := i.isLt
    rw [channelBit, ← BitVec.twoPow_eq, BitVec.getLsbD_twoPow]
    simp [hi, eq_comm]
  rw [BitVec.getLsbD_and, BitVec.getLsbD_not, bit]
  by_cases hk : k < 8
  · simp [hk]
  · simp [BitVec.getLsbD_of_ge old k (by omega)]

/-- An index of 0 to 7 is in range, and its channel is that index (R111, R113). -/
theorem outOfRange_eq_false (d : Byte) (h : d ≤ 7#8) : outOfRange d = false := by
  have : d.toNat ≤ 7 := h
  simp [outOfRange, BitVec.ult]; omega

theorem channelIndex_toNat (d : Byte) (h : d ≤ 7#8) : (channelIndex d).toNat = d.toNat := by
  have : d.toNat ≤ 7 := h
  simp [channelIndex, BitVec.extractLsb'_toNat]; omega

/-- Latches that are all clear stay so through a write to any register (R23). -/
theorem Device.takeWrite_keepsClear (d : Device) (a : RegAddr) (v : Byte)
    (h : d.regs.read RegName.hwcrOcl.addr = some 0x00#8) :
    (d.takeWrite a v).regs.read RegName.hwcrOcl.addr = some 0x00#8 := by
  by_cases ha : a = RegName.hwcrOcl.addr
  · rw [ha, d.takeWrite_latches v, d.latches_known _ h, BitVec.zero_and]
  · rw [d.takeWrite_other a _ v (Ne.symm ha), h]

/-- A write of 0xFF clears every latch, known before or not, and later writes leave them clear. -/
theorem Device.takeWrites_clearAll (d : Device) (rest : List (Byte × Byte)) :
    (d.takeWrites ((RegName.hwcrOcl.operand, 0xFF#8) :: rest)).regs.read RegName.hwcrOcl.addr = some 0x00#8 := by
  have cleared : (d.takeWrite RegName.hwcrOcl.addr 0xFF#8).regs.read RegName.hwcrOcl.addr = some 0x00#8 := by
    rw [d.takeWrite_latches]
    exact congrArg some BitVec.and_zero
  have kept (writes : List (Byte × Byte)) (e : Device) (h : e.regs.read RegName.hwcrOcl.addr = some 0x00#8) :
      (e.takeWrites writes).regs.read RegName.hwcrOcl.addr = some 0x00#8 := by
    induction writes generalizing e with
    | nil => exact h
    | cons w writes ih => exact ih _ (e.takeWrite_keepsClear _ w.2 h)
  exact kept rest _ cleared

/-- INIT's register writes, in the order of R122. -/
def initWrites : List (Byte × Byte) :=
  [(RegName.hwcrOcl.operand, 0xFF#8), (RegName.mapin0.operand, Config.mapin0Default),
    (RegName.mapin1.operand, Config.mapin1Default), (RegName.diagIol.operand, Config.diagIolDefault),
    (RegName.hwcr.operand, Config.hwcrActiveBaseline), (RegName.out.operand, 0x00#8)]

/-- Settles O57: each of the three commands is register writes; CLRERR's one write clears one latch, and CLRALL's and
INIT's first clears all of them. -/
theorem latchesAreClearedByWritingOnes : Obligations.LatchesAreClearedByWritingOnes := by
  unfold Obligations.LatchesAreClearedByWritingOnes
  intro a d s dev hp far
  refine ⟨fun hd => ?_, ?_, ?_⟩
  · have prog : progOf (.clrerr a d) s.dr = writeSeqs [(RegName.hwcrOcl.operand, channelBit (channelIndex d))] := by
      simp [progOf, clrerrProg, outOfRange_eq_false d hd, writeSeqs]
    obtain ⟨t, ht, hdev⟩ := execRepeat_writesOnly (.clrerr a d) rfl s dev _ hp far prog
    refine ⟨t, _, dev.latches &&& ~~~channelBit (channelIndex d), ht, hdev, dev.takeWrite_latches _, ?_,
      fun old hold k => ?_⟩
    · rw [getLsbD_and_not_channelBit, channelIndex_toNat d hd]; simp
    · rw [getLsbD_and_not_channelBit, channelIndex_toNat d hd, dev.latches_known old hold]
  · obtain ⟨t, ht, hdev⟩ := execRepeat_writesOnly (.clrall a d) rfl s dev [(RegName.hwcrOcl.operand, 0xFF#8)] hp far rfl
    exact ⟨t, _, ht, hdev, dev.takeWrites_clearAll []⟩
  · obtain ⟨t, ht, hdev⟩ := execRepeat_writesOnly (.init a d) rfl s dev initWrites hp far rfl
    exact ⟨t, _, ht, hdev, dev.takeWrites_clearAll initWrites.tail⟩

end Sys2Proof.Machine

/-! ### The fetched instruction, unfinished exchanges and waits -/

namespace Sys2Proof.Machine

/-- Settles O16: with `rst` low the fetch is that of the command alone, which reads the port in IDLE and CR in RUN. -/
theorem stepRunsTheFetchedInstruction : Obligations.StepRunsTheFetchedInstruction := by
  unfold Obligations.StepRunsTheFetchedInstruction
  intro s i hlow
  have low := s.rstLow_iff.mp hlow
  refine ⟨fun w rest hp ho hd => ?_, fun hp hd => ?_, step_waiting s low⟩
  · simp only [step, s.fetch_low low, State.fetchCommand, hp, ho, hd]
  · simp only [step, s.fetch_low low, State.fetchCommand, hp, hd]

/-- An exchange that has not returned uses up the adapter's answer and does nothing else (R36, R148). -/
theorem xfer_pending (tx : Frame) (cap : Capture) (tag : Pend) (s : State) (h : s.answer = .pending) :
    xfer tx cap tag s = s.waitTransport := by
  simp only [xfer, h]

/-- An exchange that never returns does nothing (R148). -/
theorem xfer_never (tx : Frame) (cap : Capture) (tag : Pend) (s : State) (h : s.answer = .never) :
    xfer tx cap tag s = s := by
  simp only [xfer, h]

/-- A `WAIT` at low `wait_done` uses up that level and does nothing else (R143). -/
theorem waitOp_low (s : State) (h : s.settle.head? = some .low) : waitOp s = s.waitSettle := by
  obtain ⟨rest, hs⟩ := List.head?_eq_some_iff.mp h
  simp only [waitOp, hs]

/-- A `WAIT` whose `wait_done` never rises does nothing (R148). -/
theorem waitOp_never (s : State) (h : s.settle.head? = some .never) : waitOp s = s := by
  obtain ⟨rest, hs⟩ := List.head?_eq_some_iff.mp h
  simp only [waitOp, hs]

/-- Settles O23: the command's step is the micro-operation at UPC, which goes on or hangs. -/
theorem unfinishedExchangeOrWaitHoldsTheBlock : Obligations.UnfinishedExchangeOrWaitHoldsTheBlock := by
  unfold Obligations.UnfinishedExchangeOrWaitHoldsTheBlock
  intro i s hc hp
  refine ⟨fun tx cap tag hop => ?_, fun hop => ?_⟩
  · rw [exec_perform i s _ hc hp hop, perform]
    refine ⟨fun hpending => ?_, fun hnever => ?_⟩
    · rw [xfer_pending tx cap tag s hpending]; rfl
    · rw [xfer_never tx cap tag s hnever]
  · rw [exec_perform i s _ hc hp hop, perform]
    refine ⟨fun hlow => ?_, fun hnever => ?_⟩
    · rw [waitOp_low s hlow]; rfl
    · rw [waitOp_never s hnever]

end Sys2Proof.Machine

/-! ### Received bits -/

namespace Sys2Proof.Machine

/-- `t` is `s` but for DR and for the adapter's answers still to come. -/
def State.AgreesButReceived (s t : State) : Prop := ∃ dr script, t = { s with dr := dr, script := script }

/-- A micro-operation puts the 16 bits it receives into DR and nowhere else (R37, R90). -/
theorem perform_withReceived (op : MicroOp) (s : State) (w w' : Frame) (rest : List Answer) :
    (perform op { s with script := .rx w :: rest }).AgreesButReceived
      (perform op { s with script := .rx w' :: rest }) := by
  cases op with
  | pin level => exact ⟨_, _, rfl⟩
  | wait =>
    simp only [perform, waitOp]
    split <;> exact ⟨_, _, rfl⟩
  | xfer tx cap tag =>
    simp only [perform]
    rw [xfer_rx tx cap tag _ w rfl, xfer_rx tx cap tag _ w' rfl]
    cases cap <;> exact ⟨_, _, rfl⟩

/-- A reset cuts the same, whatever the cut exchange would have returned, and overwrites DR (R150, R151). -/
theorem cutShort_applyReset_withReceived (s : State) (w w' : Frame) (rest : List Answer) (delivered : Bool) :
    ((({ s with script := .rx w :: rest } : State).cutShort delivered).applyReset).AgreesButReceived
      ((({ s with script := .rx w' :: rest } : State).cutShort delivered).applyReset) := by
  have sameOp (answers : List Answer) : ({ s with script := answers } : State).microOp? = s.microOp? := rfl
  simp only [State.cutShort, sameOp]
  split
  · cases delivered <;> exact ⟨_, _, rfl⟩
  · exact ⟨_, _, rfl⟩
  · exact ⟨_, _, rfl⟩
  · exact ⟨_, _, rfl⟩

/-- Whatever the next exchange returns, a step leads to the same state but for DR (R37). -/
theorem step_withReceived (s t : State) (w w' : Frame) (rest : List Answer)
    (hstep : step { s with script := .rx w :: rest } = .next t) :
    ∃ t', step { s with script := .rx w' :: rest } = .next t' ∧ t.AgreesButReceived t' := by
  rcases step_inversion _ t hstep with
    ⟨delivered, rst, hr, rfl⟩ |
    ⟨low, ⟨hp, ho, rfl⟩ | ⟨hp, word, offers, e, ho, hd, rfl⟩ | ⟨hp, word, offers, i, ho, hd, rfl⟩ |
      ⟨hp, i, op, hd, hop, rfl⟩ | ⟨hp, i, hd, hend, rfl⟩⟩
  · exact ⟨_, step_reset { s with script := .rx w' :: rest } delivered rst hr,
      cutShort_applyReset_withReceived { s with rst := rst } w w' rest delivered⟩
  · exact ⟨_, step_waiting { s with script := .rx w' :: rest } low hp ho, _, _, rfl⟩
  · exact ⟨_, step_illegal { s with script := .rx w' :: rest } low word offers e hp ho hd, _, _, rfl⟩
  · exact ⟨_, step_accept { s with script := .rx w' :: rest } low word offers i hp ho hd, _, _, rfl⟩
  · exact ⟨_, step_perform { s with script := .rx w' :: rest } low i op hp hd hop,
      perform_withReceived op { s with rst := s.rst.tail } w w' rest⟩
  · exact ⟨_, step_complete { s with script := .rx w' :: rest } low i hp hd hend, _, _, rfl⟩

/-- Settles O47: the two steps agree but for DR and the answers to come, so in all the statement names. -/
theorem receivedBitsNeverSteerTheBlock : Obligations.ReceivedBitsNeverSteerTheBlock := by
  unfold Obligations.ReceivedBitsNeverSteerTheBlock
  intro s t w w' rest hstep
  obtain ⟨t', ht', dr, script, rfl⟩ := step_withReceived s t w w' rest hstep
  exact ⟨_, ht', rfl, rfl, rfl, rfl, rfl, rfl, rfl⟩

end Sys2Proof.Machine

/-! ### The registers a command's frames leave alone -/

namespace Sys2Proof.Machine

/-- A frame of WRITE shape (R57), which a device takes as a write to the register it names (R40). -/
def IsWriteFrame (tx : Frame) : Prop := tx &&& 0xC000#16 = 0x8000#16

theorem not_isWriteFrame_encR (a : Byte) : ¬ IsWriteFrame (encR a) := by
  rw [IsWriteFrame, encR_type]; decide

theorem not_isWriteFrame_nopFrame : ¬ IsWriteFrame nopFrame := by
  unfold IsWriteFrame nopFrame; decide

/-- A device awake and quiet keeps, through any frame, every register but the one a write frame names (R39, R40). -/
theorem Device.take_other (d : Device) (tx : Frame) (r : RegAddr) (awake : d.asleep = false) (quiet : d.changes = [])
    (spared : IsWriteFrame tx → r ≠ tx.extractLsb' 8 6) : (d.take tx).regs.read r = d.regs.read r := by
  simp only [Device.take, d.ownChange_none quiet, awake]
  split
  · rename_i hw; exact d.takeWrite_other _ r _ (spared hw)
  · split <;> rfl

/-- A move of the line leaves an awake device's registers (log entry 17). -/
theorem Device.lineMoves_regs (d : Device) (old new : Level) (awake : d.asleep = false) :
    (d.lineMoves old new).regs = d.regs := by
  simp only [Device.lineMoves, awake]
  split <;> simp

/-- The registers that the write frames among these micro-operations name are all in `targets`. -/
def WritesWithin (targets : List RegAddr) (ops : List MicroOp) : Prop :=
  ∀ tx cap tag, .xfer tx cap tag ∈ ops → IsWriteFrame tx → tx.extractLsb' 8 6 ∈ targets

theorem WritesWithin.nil (targets : List RegAddr) : WritesWithin targets [] := by
  intro tx cap tag h
  simp at h

theorem WritesWithin.append {targets : List RegAddr} {ops ops' : List MicroOp} (h : WritesWithin targets ops)
    (h' : WritesWithin targets ops') : WritesWithin targets (ops ++ ops') := by
  intro tx cap tag hmem
  rcases List.mem_append.mp hmem with hmem | hmem
  · exact h tx cap tag hmem
  · exact h' tx cap tag hmem

/-- `WriteRegSeq(a, v)` writes the register `a` names (R92). -/
theorem WritesWithin.writeRegSeq {targets : List RegAddr} (a v : Byte) (h : a.setWidth 6 ∈ targets) :
    WritesWithin targets (writeRegSeq a v) := by
  intro tx cap tag hmem hw
  simp only [Machine.writeRegSeq, List.mem_cons, MicroOp.xfer.injEq, List.not_mem_nil, or_false] at hmem
  rcases hmem with ⟨rfl, -⟩ | ⟨rfl, -⟩
  · rw [encW_address]; exact h
  · exact absurd hw not_isWriteFrame_nopFrame

/-- `ReadRegSeq(a)` writes none (R94). -/
theorem WritesWithin.readRegSeq (targets : List RegAddr) (a : Byte) : WritesWithin targets (readRegSeq a) := by
  intro tx cap tag hmem hw
  simp only [Machine.readRegSeq, List.mem_cons, MicroOp.xfer.injEq, List.not_mem_nil, or_false] at hmem
  rcases hmem with ⟨rfl, -⟩ | ⟨rfl, -⟩ | ⟨rfl, -⟩
  · exact absurd hw (not_isWriteFrame_encR a)
  · exact absurd hw not_isWriteFrame_nopFrame
  · exact absurd hw not_isWriteFrame_nopFrame

/-- `ReadDiagSeq` writes what DIAG_REQ_FRAME names where that frame has a write's shape (R96). -/
theorem WritesWithin.readDiagSeq {targets : List RegAddr}
    (h : IsWriteFrame Config.diagReqFrame → Config.diagReqFrame.extractLsb' 8 6 ∈ targets) :
    WritesWithin targets readDiagSeq := by
  intro tx cap tag hmem hw
  simp only [Machine.readDiagSeq, List.mem_cons, MicroOp.xfer.injEq, List.not_mem_nil, or_false] at hmem
  rcases hmem with ⟨rfl, -⟩ | ⟨rfl, -⟩
  · exact h hw
  · exact absurd hw not_isWriteFrame_nopFrame

/-- Pin moves and waits write none. -/
theorem WritesWithin.pin_wait (targets : List RegAddr) (level : Level) : WritesWithin targets [.pin level, .wait] := by
  intro tx cap tag hmem
  simp at hmem

/-- An operand made from a register's name names that register (R77). -/
@[simp] theorem RegName.operand_setWidth (r : RegName) : r.operand.setWidth 6 = r.addr := by
  rw [RegName.operand, BitVec.setWidth_setWidth_of_le _ (by decide), BitVec.setWidth_eq]

/-- A write of a named register writes within any list that has it. -/
theorem WritesWithin.named {targets : List RegAddr} (r : RegName) (v : Byte) (h : r.addr ∈ targets) :
    WritesWithin targets (Machine.writeRegSeq r.operand v) :=
  .writeRegSeq _ v (r.operand_setWidth ▸ h)

/-- A command's write frames go to the registers `writesTo` lists (R92, R110 to R112, R120 to R122). -/
theorem progOf_writesWithin (i : Instr) (dr : BitVec 16) : WritesWithin (writesTo i) (progOf i dr) := by
  cases i with
  | write | readreq | nop | diagreq => exact .nil _
  | rdreg a d => exact .readRegSeq _ a
  | wrreg a d => exact .writeRegSeq a d (List.mem_singleton.mpr rfl)
  | rddiag a d =>
    refine .readDiagSeq fun hw => ?_
    rw [writesTo, if_pos (show Config.diagReqFrame &&& 0xC000#16 = 0x8000#16 from hw)]
    exact List.mem_singleton.mpr rfl
  | setch a d =>
    simp only [writesTo, progOf, setchProg]
    split
    · exact .nil _
    · exact (WritesWithin.readRegSeq _ _).append (.named .out _ (List.mem_singleton.mpr rfl))
  | clrerr a d =>
    simp only [writesTo, progOf, clrerrProg]
    split
    · exact .nil _
    · exact .named .hwcrOcl _ (List.mem_singleton.mpr rfl)
  | clrall a d => exact .named .hwcrOcl _ (List.mem_singleton.mpr rfl)
  | sleep a d => exact (WritesWithin.named .out _ (List.mem_singleton.mpr rfl)).append (.pin_wait _ 0)
  | active a d =>
    exact ((WritesWithin.pin_wait _ 1).append (.readRegSeq _ _)).append (.named .hwcr _ (List.mem_singleton.mpr rfl))
  | init a d =>
    refine (((((WritesWithin.named .hwcrOcl _ ?_).append (.named .mapin0 _ ?_)).append (.named .mapin1 _ ?_)).append
      (.named .diagIol _ ?_)).append (.named .hwcr _ ?_)).append (.named .out _ ?_) <;> simp [writesTo]

/-- A micro-operation keeps every register of a device awake and quiet but the one its write frame names; where the
exchange faults, whether or not the device took the frame (R133, U10). -/
theorem perform_leavesRegister (op : MicroOp) (s : State) (d d' : Device) (r : RegAddr) (isDevice : s.device = some d)
    (awake : d.asleep = false) (quiet : d.changes = [])
    (spared : ∀ tx cap tag, op = .xfer tx cap tag → IsWriteFrame tx → r ≠ tx.extractLsb' 8 6)
    (ht : (perform op s).device = some d') : d'.regs.read r = d.regs.read r := by
  cases op with
  | pin level =>
    have moved : (perform (.pin level) s).device = some (d.lineMoves s.mode level) := congrArg (Option.map _) isDevice
    cases moved.symm.trans ht
    rw [d.lineMoves_regs _ _ awake]
  | wait =>
    have same : (perform .wait s).device = some d := by
      rcases waitOp_cases s with ⟨_, h⟩ | ⟨_, h⟩ | ⟨_, h⟩ <;> simp [perform, h, isDevice]
    cases same.symm.trans ht
    rfl
  | xfer tx cap tag =>
    have taken_or_not : (perform (.xfer tx cap tag) s).device = some (d.take tx) ∨
        (perform (.xfer tx cap tag) s).device = some d := by
      rcases xfer_cases s tx cap tag with ⟨w, _, h⟩ | ⟨info, delivered, _, h⟩ | ⟨_, h⟩ | ⟨_, h⟩
      · exact .inl (by simp [perform, h, isDevice])
      · cases delivered with
        | true => exact .inl (by simp [perform, h, isDevice])
        | false => exact .inr (by simp [perform, h, isDevice])
      · exact .inr (by simp [perform, h, isDevice])
      · exact .inr (by simp [perform, h, isDevice])
    rcases taken_or_not with taken | untouched
    · cases taken.symm.trans ht
      exact d.take_other tx r awake quiet (spared tx cap tag rfl)
    · cases untouched.symm.trans ht
      rfl

/-- Settles O51: Accept and Complete leave the device, and a micro-operation reaches only registers `writesTo` lists. -/
theorem commandLeavesOtherDeviceRegisters : Obligations.CommandLeavesOtherDeviceRegisters := by
  unfold Obligations.CommandLeavesOtherDeviceRegisters
  intro i s t d d' r hc isDevice awake quiet hexec ht hr
  rw [exec_command s i hc] at hexec
  rcases stepCommand_cases s t _ _ _ hexec with ⟨_, rfl⟩ | ⟨_, op, hop, rfl⟩ | ⟨_, _, rfl⟩
  · cases isDevice.symm.trans ht
    rfl
  · refine perform_leavesRegister op s d d' r isDevice awake quiet (fun tx cap tag hx hw hrtx => ?_) ht
    exact hr (hrtx ▸ progOf_writesWithin i s.dr tx cap tag (hx ▸ List.mem_of_getElem? hop) hw)
  · cases isDevice.symm.trans ht
    rfl

end Sys2Proof.Machine

/-! ### Register access, with the assumed device at the far end -/

namespace Sys2Proof.Machine

/-- The drain or answer frame that captures a byte puts into DR what the device owes (R14, R39). -/
theorem State.RunsAt.exec_data8 {s : State} {k : Nat} {dr : BitVec 16} {d : Device} (h : s.RunsAt k dr d) (i : Instr)
    (hc : i.isCommand = true) (tx : Frame) (tag : Pend) (hop : (progOf i dr)[k]? = some (.xfer tx .data8 tag))
    (v : Byte) (owes : d.owed = some v) : ∃ t, exec i s = .next t ∧ t.RunsAt (k + 1) (zext16 v) (d.take tx) := by
  obtain ⟨hp, rfl, rfl, far⟩ := h
  obtain ⟨hx, far'⟩ := xfer_farEnd d s far tx .data8 tag
  obtain ⟨-, -, awake, -⟩ := far
  refine ⟨_, exec_perform i s _ hc hp hop, ?_, ?_, ?_, far'⟩
  · simp only [perform, hx]; exact hp
  · simp only [perform, hx]; exact toNat_upc_succ i s.dr s.upc _ hop
  · simp only [perform, hx]
    exact congrArg zext16 (d.dec_shiftOut v _ awake owes)

/-- What a quiet device makes of `ReadRegSeq(a)` (R94): it ends owing nothing and changes no register. -/
theorem Device.take_readRegSeq (d : Device) (a : Byte) (quiet : d.changes = []) :
    ((d.take (encR a)).take nopFrame).take nopFrame = { d with owed := none } := by
  have drained (b : Option Byte) : ({ d with owed := b } : Device).take nopFrame = { d with owed := none } :=
    Device.take_nop _ quiet
  rw [d.take_encR a quiet, drained, drained]

/-- Running `ReadRegSeq(a)` (R94): DR holds the register's content, and the device owes nothing and has changed no
register. What follows it in the micro-program may depend on DR. -/
theorem State.RunsAt.execRepeat_readRegSeq {s : State} {k : Nat} {dr : BitVec 16} {d : Device} (h : s.RunsAt k dr d)
    (i : Instr) (hc : i.isCommand = true) (a v : Byte) (pre : List MicroOp) (post : BitVec 16 → List MicroOp)
    (hprog : ∀ x, progOf i x = pre ++ (readRegSeq a ++ post x)) (hk : pre.length = k)
    (known : d.regs.read (a.setWidth 6) = some v) (n : Nat) :
    ∃ t, execRepeat i (n + 3) s = execRepeat i n t ∧ t.RunsAt (k + 3) (zext16 v) { d with owed := none } := by
  have op (x : BitVec 16) (j : Nat) (hj : j < 3) : (progOf i x)[k + j]? = (readRegSeq a)[j]? := by
    rw [hprog, ← hk, List.getElem?_append_right (Nat.le_add_right _ j), Nat.add_sub_cancel_left,
      List.getElem?_append_left hj]
  obtain ⟨-, -, -, quiet⟩ := h.farEnd
  obtain ⟨t, ht, asked⟩ := h.exec_drop i hc (encR a) .rdData (op dr 0 (by decide))
  have owes : (d.take (encR a)).owed = some v := by rw [d.take_encR a quiet]; exact known
  obtain ⟨u, hu, answered⟩ := asked.exec_data8 i hc nopFrame .rdTrail (op dr 1 (by decide)) v owes
  obtain ⟨w, hw, drained⟩ := answered.exec_drop i hc nopFrame .none (op (zext16 v) 2 (by decide))
  rw [d.take_readRegSeq a quiet] at drained
  exact ⟨w, by rw [execRepeat_succ i _ s t ht, execRepeat_succ i _ t u hu, execRepeat_succ i _ u w hw], drained⟩

/-- At the end of its micro-program a command completes: the block is idle, its response is
OK with the data R91 gives it, and the device is where it was. -/
theorem State.RunsAt.exec_complete {s : State} {dr : BitVec 16} {d : Device} (i : Instr) (hc : i.isCommand = true)
    (h : s.RunsAt (progOf i dr).length dr d) :
    ∃ t f, exec i s = .next t ∧ t.phase = .idle ∧ t.FarEndIs d ∧
      t.trace.getLast? = some (.responded ⟨0#2, resultOf i dr, f⟩) := by
  obtain ⟨hp, hupc, rfl, far⟩ := h
  refine ⟨s.complete (resultOf i s.dr), Config.freeFinfo s.draws, ?_, rfl, far, ?_⟩
  · rw [exec_command s i hc]
    exact stepCommand_complete _ _ _ s hp hupc
  · rw [State.complete_trace, List.getLast?_concat]
    rfl

/-- WRREG from Accept to its response (R93): the device has taken the write. -/
theorem execRepeat_wrreg (a v : Byte) (s : State) (d : Device) (hp : s.phase = .idle) (far : s.FarEndIs d) :
    ∃ t, execRepeat (.wrreg a v) 4 s = .next t ∧ t.phase = .idle ∧ t.FarEndIs (d.takeWrite (a.setWidth 6) v) := by
  obtain ⟨t, ht, accepted⟩ := exec_accept_runsAt (.wrreg a v) rfl s d hp far
  obtain ⟨u, hu, written⟩ := accepted.execRepeat_writeRegSeq (.wrreg a v) rfl a v [] [] rfl rfl 1
  obtain ⟨w, _, hw, idle, farEnd, -⟩ := State.RunsAt.exec_complete (.wrreg a v) rfl written
  exact ⟨w, by rw [execRepeat_succ _ 3 s t ht, hu, execRepeat_succ _ 0 u w hw]; rfl, idle, farEnd⟩

/-- RDREG of a register whose content is known, from Accept to its response (R95), which carries that content; the
device has changed no register. -/
theorem execRepeat_rdreg (a e v : Byte) (s : State) (d : Device) (hp : s.phase = .idle) (far : s.FarEndIs d)
    (known : d.regs.read (a.setWidth 6) = some v) :
    ∃ t f, execRepeat (.rdreg a e) 5 s = .next t ∧ t.FarEndIs { d with owed := none } ∧
      t.trace.getLast? = some (.responded ⟨0#2, v.setWidth 16, f⟩) := by
  obtain ⟨t, ht, accepted⟩ := exec_accept_runsAt (.rdreg a e) rfl s d hp far
  obtain ⟨u, hu, captured⟩ :=
    accepted.execRepeat_readRegSeq (.rdreg a e) rfl a v [] (fun _ => []) (fun _ => rfl) rfl known 1
  obtain ⟨w, f, hw, -, farEnd, responded⟩ := State.RunsAt.exec_complete (.rdreg a e) rfl captured
  exact ⟨w, f, by rw [execRepeat_succ _ 4 s t ht, hu, execRepeat_succ _ 0 u w hw]; rfl, farEnd, responded⟩

/-- Settles O52: WRREG leaves the device with the value in the register, which RDREG then reads. -/
theorem writeThenReadRoundTrip : Obligations.WriteThenReadRoundTrip := by
  unfold Obligations.WriteThenReadRoundTrip
  intro a v e s dev hp far ordinary notOcl
  obtain ⟨t, ht, idle, far'⟩ := execRepeat_wrreg a v s dev hp far
  have stored := dev.takeWrite_ordinary (a.setWidth 6) v notOcl ordinary
  obtain ⟨u, f, hu, -, responded⟩ := execRepeat_rdreg a e v t _ idle far' stored
  exact ⟨t, u, f, ht, hu, responded⟩

/-- Settles O53: RDREG responds with the content, and the device it leaves differs in what it owes alone. -/
theorem rdregRespondsWithTheRegister : Obligations.RdregRespondsWithTheRegister := by
  unfold Obligations.RdregRespondsWithTheRegister
  intro a e v s dev hp far known
  obtain ⟨t, f, ht, ⟨-, isDevice, -, -⟩, responded⟩ := execRepeat_rdreg a e v s dev hp far known
  exact ⟨t, f, _, ht, responded, isDevice, rfl⟩

end Sys2Proof.Machine

/-! ### The encodings: frames, command words and the two decoders -/

namespace Sys2Proof.Machine

/-- The layout of a write frame (R57). -/
theorem encW_eq_append (a v : Byte) : encW a v = 0b10#2 ++ a.extractLsb' 0 6 ++ v := by
  apply BitVec.eq_of_getLsbD_eq
  intro i hi
  show _ = BitVec.getLsbD (w := 2 + 6 + 8) (0b10#2 ++ a.extractLsb' 0 6 ++ v) i
  rw [encW_getLsbD, BitVec.getLsbD_append, BitVec.getLsbD_append, BitVec.getLsbD_extractLsb']
  interval_cases i <;> simp

/-- The layout of a read-request frame (R58). -/
theorem encR_eq_append (a : Byte) : encR a = 0b01#2 ++ a.extractLsb' 0 6 ++ 0b000000#6 ++ 0b10#2 := by
  apply BitVec.eq_of_getLsbD_eq
  intro i hi
  show _ = BitVec.getLsbD (w := 2 + 6 + 6 + 2) (0b01#2 ++ a.extractLsb' 0 6 ++ 0b000000#6 ++ 0b10#2) i
  rw [encR_getLsbD, BitVec.getLsbD_append, BitVec.getLsbD_append, BitVec.getLsbD_append, BitVec.getLsbD_extractLsb']
  interval_cases i <;> simp

theorem encode_write (a v : Byte) : encode (.write a v) = .frame (encW a v) :=
  congrArg Encoded.frame (encW_eq_append a v).symm

theorem encode_readreq (a : Byte) : encode (.readreq a) = .frame (encR a) :=
  congrArg Encoded.frame (encR_eq_append a).symm

/-- The low six bits of an address operand, as an operand again (R34). -/
theorem setWidth_address (a : Byte) : (a.setWidth 6).setWidth 8 = a &&& 0x3F#8 := by
  apply BitVec.eq_of_getLsbD_eq
  intro i hi
  simp only [BitVec.getLsbD_setWidth, BitVec.getLsbD_and]
  interval_cases i <;> simp

theorem frameAddress_encW (a v : Byte) : frameAddress (encW a v) = a &&& 0x3F#8 := by
  rw [frameAddress, encW_address, setWidth_address]

theorem frameAddress_encR (a : Byte) : frameAddress (encR a) = a &&& 0x3F#8 := by
  rw [frameAddress, encR_address, setWidth_address]

/-- An operand whose bits [7:6] are clear is its low six bits. -/
theorem addressFits_iff (a : Byte) : addressFits a = true ↔ a &&& 0x3F#8 = a := by
  have halves : a = (a &&& 0xC0#8) ||| (a &&& 0x3F#8) := by
    rw [← BitVec.and_or_distrib_left]
    exact BitVec.and_allOnes.symm
  rw [addressFits, beq_iff_eq]
  refine ⟨fun high => ?_, fun low => ?_⟩
  · rw [high, BitVec.zero_or] at halves
    exact halves.symm
  · rw [← low, BitVec.and_assoc]
    exact BitVec.and_zero

/-- The address read from a frame has six bits. -/
theorem frameAddress_and (t : Frame) : frameAddress t &&& 0x3F#8 = frameAddress t := by
  have narrowed : (frameAddress t).setWidth 6 = t.extractLsb' 8 6 := by
    rw [frameAddress, BitVec.setWidth_setWidth_of_le _ (by decide), BitVec.setWidth_eq]
  rw [← setWidth_address, narrowed, frameAddress]

/-- A frame of type `10` is the write frame of its fields (R57). -/
theorem encW_of_type {t : Frame} (h : t &&& 0xC000#16 = 0x8000#16) : encW (frameAddress t) (frameByte t) = t := by
  have masked (i : Nat) : (t.getLsbD i && (0xC000#16).getLsbD i) = (0x8000#16).getLsbD i := by
    rw [← BitVec.getLsbD_and, h]
  have bit14 := masked 14
  have bit15 := masked 15
  apply BitVec.eq_of_getLsbD_eq
  intro i hi
  rw [encW_getLsbD]
  simp only [frameAddress, frameByte, BitVec.getLsbD_setWidth, BitVec.getLsbD_extractLsb']
  interval_cases i <;> simp_all

/-- A frame of type `01` with low byte 0x02 is the read request of its address (R58). -/
theorem encR_of_type_trailer {t : Frame} (h : t &&& 0xC0FF#16 = 0x4002#16) : encR (frameAddress t) = t := by
  have masked (i : Nat) : (t.getLsbD i && (0xC0FF#16).getLsbD i) = (0x4002#16).getLsbD i := by
    rw [← BitVec.getLsbD_and, h]
  apply BitVec.eq_of_getLsbD_eq
  intro i hi
  rw [encR_getLsbD]
  simp only [frameAddress, BitVec.getLsbD_setWidth, BitVec.getLsbD_extractLsb']
  have bit := masked i
  interval_cases i <;> simp_all

/-- Type bits `10` are what R66's test for a write frame asks. -/
theorem type_of_extractLsb' {t : Frame} (h : t.extractLsb' 14 2 = 0b10#2) : t &&& 0xC000#16 = 0x8000#16 := by
  have bit14 := congrArg (·.getLsbD 0) h
  have bit15 := congrArg (·.getLsbD 1) h
  simp only [BitVec.getLsbD_extractLsb'] at bit14 bit15
  apply BitVec.eq_of_getLsbD_eq
  intro i hi
  rw [BitVec.getLsbD_and]
  interval_cases i <;> simp_all

/-- Write frames differ where the low six address bits or the values do (R77). -/
theorem encW_inj (a v a' v' : Byte) : encW a v = encW a' v' ↔ a &&& 0x3F#8 = a' &&& 0x3F#8 ∧ v = v' := by
  refine ⟨fun h => ⟨?_, ?_⟩, fun ⟨ha, hv⟩ => by simp only [encW, ha, hv]⟩
  · rw [← frameAddress_encW a v, h, frameAddress_encW]
  · rw [← frameByte_encW a v, h, frameByte_encW]

/-- Settles O2: the layout, the fields read back, and the frame put together again from its fields. -/
theorem writeFrameBits : Obligations.WriteFrameBits := by
  unfold Obligations.WriteFrameBits
  refine ⟨fun a v => ⟨encW_eq_append a v, rfl, encode_write a v, encW_inj a v⟩, fun t h => ?_, by decide⟩
  exact ⟨frameAddress t, frameByte t, frameAddress_and t, encW_of_type (type_of_extractLsb' h)⟩

/-- The low byte of a read request is the trailer (R58). -/
theorem encR_lowByte (a : Byte) : (encR a).extractLsb' 0 8 = 0x02#8 := by
  apply BitVec.eq_of_getLsbD_eq
  intro i hi
  rw [BitVec.getLsbD_extractLsb', encR_getLsbD]
  interval_cases i <;> simp

/-- Settles O3: the layout, and that the encoder masks the address first. -/
theorem readRequestFrameBits : Obligations.ReadRequestFrameBits := by
  unfold Obligations.ReadRequestFrameBits
  refine ⟨fun a => ⟨encR_eq_append a, rfl, encode_readreq a, ?_, encR_lowByte a⟩, by decide⟩
  rw [encR, encR, BitVec.and_assoc, BitVec.and_self]

/-- Settles O11: the decoder is R66's five tests in their order. -/
theorem transmittedFrameIsNamedInOrder : Obligations.TransmittedFrameIsNamedInOrder := by
  unfold Obligations.TransmittedFrameIsNamedInOrder
  intro t
  rw [decodeFrame_order]
  refine ⟨fun h => if_pos h, fun h1 h => ?_, fun h1 h2 h => ?_, fun h1 h2 h3 h => ?_, fun h1 h2 h3 h4 => ?_⟩
  · rw [if_neg h1, if_pos h]
  · rw [if_neg h1, if_neg h2, if_pos h]; rfl
  · rw [if_neg h1, if_neg h2, if_neg h3, if_pos h]; rfl
  · rw [if_neg h1, if_neg h2, if_neg h3, if_neg h4]

/-- What decodes from a frame, with what is known of the frame (R66). -/
theorem decodeFrame_cases {t : Frame} {i : Instr} (h : decodeFrame t = .ok i) :
    (i = .diagreq ∧ t = Config.diagReqFrame) ∨ (i = .nop ∧ t = 0x0000#16) ∨
    (i = .write (frameAddress t) (frameByte t) ∧ t &&& 0xC000#16 = 0x8000#16) ∨
    (i = .readreq (frameAddress t) ∧ t &&& 0xC0FF#16 = 0x4002#16) := by
  rw [decodeFrame_order] at h
  split at h
  · cases h; exact .inl ⟨rfl, ‹_›⟩
  split at h
  · cases h; exact .inr (.inl ⟨rfl, ‹_›⟩)
  split at h
  · cases h; exact .inr (.inr (.inl ⟨rfl, ‹_›⟩))
  split at h
  · cases h; exact .inr (.inr (.inr ⟨rfl, ‹_›⟩))
  · cases h

/-- A write frame decodes to WRITE, where it is not DIAG_REQ_FRAME. -/
theorem decodeFrame_encW {a v : Byte} (fits : addressFits a = true) (notDiag : encW a v ≠ Config.diagReqFrame) :
    decodeFrame (encW a v) = .ok (.write a v) := by
  have notZero : encW a v ≠ 0x0000#16 := fun h => absurd (h ▸ encW_type a v) (by decide)
  rw [decodeFrame_order, if_neg notDiag, if_neg notZero, if_pos (encW_type a v), frameAddress_encW, frameByte_encW,
    (addressFits_iff a).mp fits]

/-- A read request decodes to READREQ, where it is not DIAG_REQ_FRAME. -/
theorem decodeFrame_encR {a : Byte} (fits : addressFits a = true) (notDiag : encR a ≠ Config.diagReqFrame) :
    decodeFrame (encR a) = .ok (.readreq a) := by
  have notZero : encR a ≠ 0x0000#16 := fun h => absurd (h ▸ encR_type a) (by decide)
  have notWrite : encR a &&& 0xC000#16 ≠ 0x8000#16 := by rw [encR_type]; decide
  rw [decodeFrame_order, if_neg notDiag, if_neg notZero, if_neg notWrite, if_pos (encR_type_trailer a),
    frameAddress_encR, (addressFits_iff a).mp fits]

/-- The word of a command decodes to it, ignored fields included (R60, R61). -/
theorem decodeCommand_of_encode {i : Instr} {w : CmdWord} (h : encode i = .command w) : decodeCommand w = .ok i := by
  cases i with
  | write | readreq | nop | diagreq => cases h
  | rdreg | wrreg | rddiag | setch | clrerr | clrall | sleep | active | init =>
    cases h
    simp [decodeCommand]

/-- A command is encoded as the word Accept latches (R13, R60). -/
theorem encode_of_isCommand {i : Instr} (hc : i.isCommand = true) : encode i = .command (wordOf i) := by
  cases i with
  | write | readreq | nop | diagreq => cases hc
  | rdreg | wrreg | rddiag | setch | clrerr | clrall | sleep | active | init => rfl

theorem wellFormed_of_isCommand {i : Instr} (hc : i.isCommand = true) : i.wellFormed = true := by
  cases i with
  | write | readreq | nop | diagreq => cases hc
  | rdreg | wrreg | rddiag | setch | clrerr | clrall | sleep | active | init => rfl

/-- Settles O8: the frames one by one, for which R66's earlier tests fail; a command by its word's fields. -/
theorem decodeOfEncodeIsTheInstruction : Obligations.DecodeOfEncodeIsTheInstruction := by
  unfold Obligations.DecodeOfEncodeIsTheInstruction
  intro i wf collision
  cases i with
  | write a v =>
    rw [encode_write] at collision ⊢
    exact decodeFrame_encW wf fun h => nomatch collision (congrArg Encoded.frame h)
  | readreq a =>
    rw [encode_readreq] at collision ⊢
    exact decodeFrame_encR wf fun h => nomatch collision (congrArg Encoded.frame h)
  | nop => rfl
  | diagreq => exact (decodeFrame_order _).trans (if_pos rfl)
  | rdreg | wrreg | rddiag | setch | clrerr | clrall | sleep | active | init => exact decodeCommand_of_encode rfl

/-- Settles O9: a frame is put together again from the fields its name says; a command word is its command's own. -/
theorem encodeOfDecodeIsTheWord : Obligations.EncodeOfDecodeIsTheWord := by
  unfold Obligations.EncodeOfDecodeIsTheWord
  intro e i h
  cases e with
  | frame t =>
    have fits : addressFits (frameAddress t) = true := (addressFits_iff _).mpr (frameAddress_and t)
    rcases decodeFrame_cases h with ⟨rfl, rfl⟩ | ⟨rfl, rfl⟩ | ⟨rfl, shape⟩ | ⟨rfl, shape⟩
    · exact ⟨rfl, rfl⟩
    · exact ⟨rfl, rfl⟩
    · exact ⟨by rw [encode_write, encW_of_type shape], fits⟩
    · exact ⟨by rw [encode_readreq, encR_of_type_trailer shape], fits⟩
  | command w =>
    have hc := decodeCommand_isCommand w i h
    exact ⟨by rw [encode_of_isCommand hc, wordOf_decodeCommand w i h], wellFormed_of_isCommand hc⟩

/-- Settles O10: the nine assigned ops are 1 to 9, and any other op reaches the last arm of the op decode. -/
theorem exactlyTheUnassignedOpsAreIllegal : Obligations.ExactlyTheUnassignedOpsAreIllegal := by
  unfold Obligations.ExactlyTheUnassignedOpsAreIllegal
  intro w
  have numeric : (cmdOp w = 0x0#4 ∨ 0xA#4 ≤ cmdOp w) ↔ ((cmdOp w).toNat = 0 ∨ 10 ≤ (cmdOp w).toNat) := by
    rw [← BitVec.toNat_inj, BitVec.le_def]; rfl
  rw [numeric]
  unfold decodeCommand
  generalize (cmdOp w).toNat = n
  match n with
  | 0 => simp
  | 1 | 2 | 3 | 4 | 5 | 6 | 7 | 8 | 9 => simp
  | n + 10 => simp

/-- Settles O7: the words evaluate; of the two frames DIAG_REQ_FRAME may be, each is named after that test. -/
theorem writtenOutWordsDecode : Obligations.WrittenOutWordsDecode := by
  unfold Obligations.WrittenOutWordsDecode
  refine ⟨by decide, by decide, by decide, by decide, by decide, by decide, ?_, ?_, ?_⟩
  · exact (decodeFrame_order _).trans (if_pos rfl)
  · exact (decodeFrame_order _).trans (if_congr Iff.rfl rfl rfl)
  · exact (decodeFrame_order _).trans (if_congr Iff.rfl rfl rfl)

/-- `on` is assembled as bit 0 of field A (R61, R68). -/
theorem onBit_onField (on : Bool) : onBit (onField on) = on := by
  cases on <;> rfl

/-- Settles O12: the table of R69 row by row. -/
theorem hostApiExpandsToCommands : Obligations.HostApiExpandsToCommands := by
  unfold Obligations.HostApiExpandsToCommands
  refine ⟨fun _ on => ⟨onField on, rfl, onBit_onField on⟩, fun _ on => ⟨onField on, rfl, onBit_onField on⟩, by decide,
    fun _ => rfl, fun _ => rfl, fun _ => rfl, rfl, rfl, rfl, rfl, rfl, rfl, rfl, rfl, fun _ => ⟨rfl, rfl⟩⟩

end Sys2Proof.Machine

/-! ### Complete, and the frames where they are due -/

namespace Sys2Proof.Machine

/-- Settles O21: the command's step at its end is Complete, with the data of R91. -/
theorem commandCompletesAtItsEnd : Obligations.CommandCompletesAtItsEnd := by
  unfold Obligations.CommandCompletesAtItsEnd
  intro i s hc hp hend
  refine ⟨Config.freeFinfo s.draws, s.draws + 1, ?_⟩
  rw [exec_command s i hc, stepCommand_complete _ _ _ s hp hend]
  cases i <;> rfl

/-- The meaning of the instruction that a frame encodes is the exchange of that frame where it is due (R56). -/
theorem exec_frame {f : Instr} {tx : Frame} (h : encode f = .frame tx) (s : State) : exec f s = sendFrame tx s := by
  cases f with
  | write a v =>
    cases (encode_write a v).symm.trans h
    rfl
  | readreq a =>
    cases (encode_readreq a).symm.trans h
    rfl
  | nop | diagreq =>
    cases h
    rfl
  | rdreg | wrreg | rddiag | setch | clrerr | clrall | sleep | active | init => cases h

/-- Where the running micro-program is at an exchange of the frame, sending it is that exchange (R63). -/
theorem sendFrame_due {s : State} {tx : Frame} {cap : Capture} {tag : Pend}
    (due : s.microOp? = some (.xfer tx cap tag)) : sendFrame tx s = .next (xfer tx cap tag s) := by
  simp only [sendFrame, due, if_true]

/-- Settles O25: both the frame's meaning and the running command's step are the exchange at UPC, which returned. -/
theorem frameIsExchangedWhereDue : Obligations.FrameIsExchangedWhereDue := by
  unfold Obligations.FrameIsExchangedWhereDue
  intro f s tx cap tag w henc due hrx
  have sends : exec f s = .next (xfer tx cap tag s) := (exec_frame henc s).trans (sendFrame_due due)
  refine ⟨?_, fun i hd => ?_⟩
  · rw [sends, xfer_rx tx cap tag s w hrx]
    cases cap <;> rfl
  · have hp := State.run_of_microOp? due
    have hop := (s.microOp?_run i hp hd).symm.trans due
    rw [sends, exec_perform i s _ (decodeCommand_isCommand _ _ hd) hp hop, perform]

end Sys2Proof.Machine

/-! ### What a step adds to the record -/

namespace Sys2Proof.Machine

/-- What a step adds to the record of what the block did: one case per kind of transaction (R19). `op?` is the
micro-operation due before the step, `before` and `after` are PHASE. -/
inductive StepRecord (op? : Option MicroOp) (before after : Phase) : List Event → Prop
  /-- Waiting for a word, an exchange or `wait_done`. -/
  | nothing (same : after = before) : StepRecord op? before after []
  /-- An exchange that returned (R90). -/
  | exchange (tx : Frame) (cap : Capture) (tag : Pend) (due : op? = some (.xfer tx cap tag))
      (same : after = before) : StepRecord op? before after [.sent tx]
  /-- A pin move (R90). -/
  | pin (level : Level) (same : after = before) : StepRecord op? before after [.pin level]
  /-- A wait that ended (R90). -/
  | settled (same : after = before) : StepRecord op? before after [.settled]
  /-- An exchange that faulted (R133). -/
  | aborted (tx : Frame) (cap : Capture) (tag : Pend) (info : FaultInfo) (due : op? = some (.xfer tx cap tag))
      (runs : before = .run) (ends : after = .idle) :
      StepRecord op? before after [.sent tx, .responded ⟨Status.transportFault.code, 0x0000#16, info⟩]
  /-- A refusal (R134). -/
  | refused (info : FaultInfo) (same : after = before) :
      StepRecord op? before after [.responded ⟨Status.illegalCmd.code, 0x0000#16, info⟩]
  /-- Accept (R91). -/
  | accepted (w : CmdWord) (idle : before = .idle) (starts : after = .run) : StepRecord op? before after [.accepted w]
  /-- Complete (R91). -/
  | completed (data : BitVec 16) (info : FaultInfo) (runs : before = .run) (ends : after = .idle) :
      StepRecord op? before after [.responded ⟨Status.ok.code, data, info⟩]
  /-- A reset that cuts no exchange, or one whose frame the device did not take (R150, R151). -/
  | reset (ends : after = .idle) : StepRecord op? before after [.resetDone (before == .run)]
  /-- A reset at an exchange whose frame the device took (R151, U19). -/
  | resetInFlight (tx : Frame) (cap : Capture) (tag : Pend) (due : op? = some (.xfer tx cap tag))
      (ends : after = .idle) : StepRecord op? before after [.sent tx, .resetDone (before == .run)]

/-- What the micro-operation due in `s` records. -/
theorem perform_records (op : MicroOp) (s : State) (due : s.microOp? = some op) :
    ∃ new, (perform op s).trace = s.trace ++ new ∧ StepRecord s.microOp? s.phase (perform op s).phase new := by
  cases op with
  | xfer tx cap tag =>
    simp only [perform]
    rcases xfer_cases s tx cap tag with ⟨w, _, h⟩ | ⟨info, delivered, _, h⟩ | ⟨_, h⟩ | ⟨_, h⟩ <;> rw [h]
    · exact ⟨_, by simp, .exchange tx cap tag due (by simp)⟩
    · exact ⟨_, by simp, .aborted tx cap tag info due (State.run_of_microOp? due) rfl⟩
    · exact ⟨[], by simp, .nothing rfl⟩
    · exact ⟨[], by simp, .nothing rfl⟩
  | pin level => exact ⟨_, rfl, .pin level rfl⟩
  | wait =>
    simp only [perform]
    rcases waitOp_cases s with ⟨_, h⟩ | ⟨_, h⟩ | ⟨_, h⟩ <;> rw [h]
    · exact ⟨[], by simp, .nothing rfl⟩
    · exact ⟨[], by simp, .nothing rfl⟩
    · exact ⟨_, rfl, .settled rfl⟩

/-- What a reset records. -/
theorem cutShort_applyReset_records (s : State) (delivered : Bool) :
    ∃ new, (s.cutShort delivered).applyReset.trace = s.trace ++ new ∧ StepRecord s.microOp? s.phase .idle new := by
  unfold State.cutShort
  split
  · rename_i tx cap tag due
    cases delivered with
    | true => exact ⟨_, List.append_assoc _ _ _, .resetInFlight tx cap tag due rfl⟩
    | false => exact ⟨_, rfl, .reset rfl⟩
  all_goals exact ⟨_, rfl, .reset rfl⟩

/-- What a step records, whichever kind of step it is. -/
theorem step_records (s t : State) (hstep : step s = .next t) :
    ∃ new, t.trace = s.trace ++ new ∧ StepRecord s.microOp? s.phase t.phase new := by
  rcases step_inversion s t hstep with
    ⟨delivered, rest, _, rfl⟩ |
    ⟨_, ⟨_, _, rfl⟩ | ⟨_, w, rest, e, _, _, rfl⟩ | ⟨hp, w, rest, i, _, _, rfl⟩ | ⟨hp, i, op, hd, hop, rfl⟩ |
      ⟨hp, i, _, _, rfl⟩⟩
  · exact cutShort_applyReset_records { s with rst := rest } delivered
  · exact ⟨[], by simp, .nothing rfl⟩
  · exact ⟨_, rfl, .refused _ rfl⟩
  · exact ⟨_, rfl, .accepted w hp rfl⟩
  · exact perform_records op { s with rst := s.rst.tail } ((s.microOp?_run i hp hd).trans hop)
  · exact ⟨_, rfl, .completed _ _ hp rfl⟩

/-- Commands running before a step and begun in it are those ended in it and running after it (R141). -/
theorem StepRecord.balance {op? : Option MicroOp} {before after : Phase} {new : List Event}
    (h : StepRecord op? before after new) :
    (if before == .run then 1 else 0) + new.countP Event.begins =
      new.countP Event.finishes + (if after == .run then 1 else 0) := by
  cases h with
  | nothing same | exchange _ _ _ _ same | pin _ same | settled same | refused _ same =>
    subst same
    simp [Event.begins, Event.finishes]
  | aborted _ _ _ _ _ runs ends | completed _ _ runs ends =>
    subst runs ends
    rfl
  | accepted _ idle starts =>
    subst idle starts
    rfl
  | reset ends | resetInFlight _ _ _ _ ends =>
    subst ends
    cases before <;> rfl

/-- Settles O43: a step adds to both sides of the account what its record balances. -/
theorem everyStepKeepsTheAccount : Obligations.EveryStepKeepsTheAccount := by
  unfold Obligations.EveryStepKeepsTheAccount
  intro s t account hstep
  obtain ⟨new, htrace, records⟩ := step_records s t hstep
  have balance := records.balance
  unfold State.Accounted State.busy at account ⊢
  rw [htrace, List.countP_append, List.countP_append]
  omega

/-- Settles O45: the responses there are come from a fault, a refusal and Complete. -/
theorem responsesHaveTheirStatusAndData : Obligations.ResponsesHaveTheirStatusAndData := by
  unfold Obligations.ResponsesHaveTheirStatusAndData
  intro s t hstep
  obtain ⟨new, htrace, records⟩ := step_records s t hstep
  refine ⟨new, htrace, fun r hr => ?_⟩
  cases records with
  | nothing | exchange | pin | settled | accepted | reset | resetInFlight => simp at hr
  | aborted =>
    obtain rfl : r = _ := by simpa using hr
    exact .inr ⟨.inl rfl, rfl⟩
  | refused =>
    obtain rfl : r = _ := by simpa using hr
    exact .inr ⟨.inr rfl, rfl⟩
  | completed =>
    obtain rfl : r = _ := by simpa using hr
    exact .inl rfl

/-- A frame of one of the four shapes the block transmits (R56). -/
def IsBlockFrame (tx : Frame) : Prop :=
  (∃ a v, tx = encW a v) ∨ (∃ a, tx = encR a) ∨ tx = nopFrame ∨ tx = Config.diagReqFrame

@[simp] theorem isBlockFrame_encW (a v : Byte) : IsBlockFrame (encW a v) := .inl ⟨a, v, rfl⟩

@[simp] theorem isBlockFrame_encR (a : Byte) : IsBlockFrame (encR a) := .inr (.inl ⟨a, rfl⟩)

@[simp] theorem isBlockFrame_nopFrame : IsBlockFrame nopFrame := .inr (.inr (.inl rfl))

@[simp] theorem isBlockFrame_diagReqFrame : IsBlockFrame Config.diagReqFrame := .inr (.inr (.inr rfl))

/-- A micro-operation that sends, if anything, such a frame. -/
def MicroOp.SendsBlockFrame : MicroOp → Prop
  | .xfer tx _ _ => IsBlockFrame tx
  | .pin _ => True
  | .wait => True

@[simp] theorem MicroOp.sendsBlockFrame_xfer (tx : Frame) (cap : Capture) (tag : Pend) :
    (MicroOp.xfer tx cap tag).SendsBlockFrame ↔ IsBlockFrame tx := Iff.rfl

@[simp] theorem MicroOp.sendsBlockFrame_pin (level : Level) : (MicroOp.pin level).SendsBlockFrame := trivial

@[simp] theorem MicroOp.sendsBlockFrame_wait : MicroOp.wait.SendsBlockFrame := trivial

/-- Whatever these micro-operations send are frames of the block. -/
def SendBlockFrames (ops : List MicroOp) : Prop := ∀ op ∈ ops, op.SendsBlockFrame

/-- A micro-program sends no other frames, whatever DR holds (R92, R94, R96). -/
theorem progOf_sendBlockFrames (i : Instr) (dr : BitVec 16) : SendBlockFrames (progOf i dr) := by
  refine progOf_cases SendBlockFrames i dr ?_ ?_ ?_ ?_ ?_ ?_ ?_ ?_ <;> intros <;>
    simp [SendBlockFrames, writeRegSeq, readRegSeq, readDiagSeq, sleepProg, activeProg, initProg]

/-- The micro-operation due is one of the running command's micro-program (R12). -/
theorem State.mem_progOf_of_microOp? {s : State} {op : MicroOp} (due : s.microOp? = some op) :
    ∃ i, decodeCommand s.cr = .ok i ∧ op ∈ progOf i s.dr := by
  have hp := State.run_of_microOp? due
  cases hd : decodeCommand s.cr with
  | ok i => exact ⟨i, rfl, List.mem_of_getElem? ((s.microOp?_run i hp hd).symm.trans due)⟩
  | error e => simp [State.microOp?, hp, hd] at due

/-- A frame that a step sends is that of the exchange due, in flight at a reset or not. -/
theorem StepRecord.sent_due {op? : Option MicroOp} {before after : Phase} {new : List Event}
    (h : StepRecord op? before after new) {tx : Frame} (hsent : .sent tx ∈ new) :
    ∃ cap tag, op? = some (.xfer tx cap tag) := by
  cases h with
  | nothing | pin | settled | refused | accepted | completed | reset => simp at hsent
  | exchange _ cap tag due | aborted _ cap tag _ due | resetInFlight _ cap tag due =>
    obtain rfl : tx = _ := by simpa using hsent
    exact ⟨cap, tag, due⟩

/-- Settles O29: what is sent is the frame of an exchange in a micro-program. -/
theorem onlyTheFourShapesAreSent : Obligations.OnlyTheFourShapesAreSent := by
  unfold Obligations.OnlyTheFourShapesAreSent
  intro s t hstep
  obtain ⟨new, htrace, records⟩ := step_records s t hstep
  refine ⟨new, htrace, fun tx hsent => ?_⟩
  obtain ⟨cap, tag, due⟩ := records.sent_due hsent
  obtain ⟨i, -, hmem⟩ := State.mem_progOf_of_microOp? due
  exact progOf_sendBlockFrames i s.dr _ hmem

end Sys2Proof.Machine

/-! ### The codec: address packing, the received byte, the channel bits and the six laws -/

namespace Sys2Proof.Machine

/-- `pack` puts the group above the sub (R75). -/
theorem pack_eq_append (g : BitVec 4) (s : BitVec 2) : pack g s = g ++ s := by
  rw [pack, ← BitVec.setWidth_append_eq_shiftLeft_setWidth_or]
  exact BitVec.setWidth_eq _

@[simp] theorem unpack_pack (g : BitVec 4) (s : BitVec 2) : unpack (pack g s) = (g, s) := by
  rw [pack_eq_append, unpack, BitVec.extractLsb'_append_eq_left, BitVec.extractLsb'_append_eq_right]

@[simp] theorem pack_unpack (a : RegAddr) : pack (unpack a).1 (unpack a).2 = a := by
  rw [pack_eq_append, unpack]
  exact BitVec.extractLsb'_append_extractLsb'

/-- Settles O1: `unpack` cuts the address where `pack` joins it. -/
theorem packAndUnpackAreInverse : Obligations.PackAndUnpackAreInverse := by
  unfold Obligations.PackAndUnpackAreInverse
  exact ⟨fun g s => ⟨pack_eq_append g s, rfl, unpack_pack g s⟩, fun a => ⟨rfl, pack_unpack a⟩⟩

/-- Settles O4: both decoders are defined as these bits, so `dec` depends on the low byte alone. -/
theorem responseDecodersKeepTheirBits : Obligations.ResponseDecodersKeepTheirBits := by
  unfold Obligations.ResponseDecodersKeepTheirBits
  exact fun rx => ⟨rfl, rfl, fun rx' sameLow => sameLow⟩

/-- `bit(i)` has bit `i` set and no other (R81). -/
@[simp] theorem getLsbD_channelBit (i : BitVec 3) (j : Nat) : (channelBit i).getLsbD j = decide (j = i.toNat) := by
  have inByte : i.toNat < 8 := i.isLt
  rw [channelBit, ← BitVec.twoPow_eq, BitVec.getLsbD_twoPow]
  simp [inByte, eq_comm]

/-- `setbit` gives bit `i` the value `on` and leaves the others (R81). -/
theorem getLsbD_setbit (old : Byte) (i : BitVec 3) (on : Bool) (j : Nat) :
    (setbit old i on).getLsbD j = if j = i.toNat then on else old.getLsbD j := by
  cases on with
  | true =>
    show (old ||| channelBit i).getLsbD j = _
    rw [BitVec.getLsbD_or, getLsbD_channelBit]
    by_cases h : j = i.toNat <;> simp [h]
  | false =>
    show (old &&& ~~~channelBit i).getLsbD j = _
    rw [getLsbD_and_not_channelBit]
    by_cases h : j = i.toNat <;> simp [h]

/-- A bit that has the wanted value already makes `setbit` do nothing (R81). -/
theorem setbit_of_getLsbD_eq {old : Byte} {i : BitVec 3} {on : Bool} (already : old.getLsbD i.toNat = on) :
    setbit old i on = old := by
  apply BitVec.eq_of_getLsbD_eq
  intro j _
  rw [getLsbD_setbit]
  split
  · rename_i same
    rw [same, already]
  · rfl

/-- Settles O6: the bits of `bit(i)` and of `setbit`, and what they say of a bit that has its value already. -/
theorem setbitTouchesOneChannel : Obligations.SetbitTouchesOneChannel := by
  unfold Obligations.SetbitTouchesOneChannel
  exact fun old i on => ⟨getLsbD_channelBit i, rfl, getLsbD_setbit old i on, setbit_of_getLsbD_eq⟩

/-- Bits [15:14] of a write frame (R57). -/
theorem encW_extract_type (a v : Byte) : (encW a v).extractLsb' 14 2 = 0b10#2 := by
  apply BitVec.eq_of_getLsbD_eq
  intro i hi
  rw [BitVec.getLsbD_extractLsb', encW_getLsbD]
  interval_cases i <;> simp

/-- Bits [15:14] of a read request (R58). -/
theorem encR_extract_type (a : Byte) : (encR a).extractLsb' 14 2 = 0b01#2 := by
  apply BitVec.eq_of_getLsbD_eq
  intro i hi
  rw [BitVec.getLsbD_extractLsb', encR_getLsbD]
  interval_cases i <;> simp

/-- Law (3) of R84: the type bits tell the three frames apart. -/
theorem frames_distinct (a a' v : Byte) : encW a v ≠ encR a' ∧ encW a v ≠ nopFrame ∧ encR a' ≠ nopFrame := by
  refine ⟨fun same => ?_, fun same => ?_, fun same => ?_⟩ <;> have types := congrArg (·.extractLsb' 14 2) same
  · simp [encW_extract_type, encR_extract_type] at types
  · simp [encW_extract_type, nopFrame] at types
  · simp [encR_extract_type, nopFrame] at types

/-- A multiple of 64 added to an address operand does not reach its low six bits (R34). -/
theorem add_multiple64_and_mask (a : Byte) (k : BitVec 2) : (a + (k.setWidth 8 <<< 6)) &&& 0x3F#8 = a &&& 0x3F#8 := by
  have above : (k.setWidth 8 <<< 6).setWidth 6 = 0#6 := by
    revert k
    decide
  rw [← setWidth_address, BitVec.setWidth_add _ _ (by decide), above, BitVec.add_zero, setWidth_address]

theorem encW_add_multiple64 (a : Byte) (k : BitVec 2) (v : Byte) : encW (a + (k.setWidth 8 <<< 6)) v = encW a v :=
  (encW_inj _ _ _ _).mpr ⟨add_multiple64_and_mask a k, rfl⟩

theorem encR_add_multiple64 (a : Byte) (k : BitVec 2) : encR (a + (k.setWidth 8 <<< 6)) = encR a := by
  rw [encR, add_multiple64_and_mask, encR]

/-- An address as an operand of the encoders keeps its six bits. -/
theorem operand_address (a : RegAddr) : (a.setWidth 8).setWidth 6 = a := by
  rw [BitVec.setWidth_setWidth_of_le _ (by decide), BitVec.setWidth_eq]

/-- A field cut out of a field, at its place in the whole word. -/
theorem extract_extract {w : Nat} (x : BitVec w) {start len start' len' : Nat} (inside : start' + len' ≤ len) :
    (x.extractLsb' start len).extractLsb' start' len' = x.extractLsb' (start + start') len' := by
  apply BitVec.eq_of_getLsbD_eq
  intro i hi
  have below : start' + i < len := by omega
  simp only [BitVec.getLsbD_extractLsb', below, decide_true, Bool.true_and, Nat.add_assoc]

/-- The group and the sub of the address a frame carries stand in bits [13:10] and [9:8] (R57, R76). -/
theorem unpack_extract_address (t : Frame) : unpack (t.extractLsb' 8 6) = (t.extractLsb' 10 4, t.extractLsb' 8 2) := by
  rw [unpack, extract_extract t (by decide), extract_extract t (by decide)]

/-- Group and sub of a packed address, read back from its write frame (R57, R75). -/
theorem encW_pack_fields (g : BitVec 4) (s : BitVec 2) (v : Byte) :
    (encW ((pack g s).setWidth 8) v).extractLsb' 10 4 = g ∧
      (encW ((pack g s).setWidth 8) v).extractLsb' 8 2 = s := by
  rw [← Prod.mk_inj, ← unpack_extract_address, encW_address, operand_address, unpack_pack]

/-- Settles O5: the fields of the two encoders, their type bits, and the mask on the address. -/
theorem codecLaws : Obligations.CodecLaws := by
  unfold Obligations.CodecLaws
  refine ⟨fun a v => ?_, fun a => ?_, frames_distinct, ?_, encW_pack_fields⟩
  · exact ⟨frameByte_encW _ v, encW_extract_type _ v, (encW_address _ v).trans (operand_address a),
      frameByte_encW _ v⟩
  · exact ⟨encR_extract_type _, (encR_address _).trans (operand_address a), encR_lowByte _, encR_lowByte _⟩
  · exact fun a k v => ⟨encW_add_multiple64 a k v, encR_add_multiple64 a k⟩

end Sys2Proof.Machine

/-! ### Frames that are not due -/

namespace Sys2Proof.Machine

/-- Where no exchange of the frame is due, sending it is refused (R102). -/
theorem sendFrame_notDue {s : State} {tx : Frame} (notDue : ∀ cap tag, s.microOp? ≠ some (.xfer tx cap tag)) :
    sendFrame tx s = .refused .frameNotDue := by
  unfold sendFrame
  split
  · next tx' cap tag due =>
    refine if_neg ?_
    rintro rfl
    exact notDue cap tag due
  · rfl

/-- In IDLE no micro-operation is due (R12). -/
theorem State.microOp?_idle {s : State} (hp : s.phase = .idle) : s.microOp? = none := by
  simp only [State.microOp?, hp]

/-- Settles O26: the frame's meaning is its exchange where due; in IDLE nothing is due. -/
theorem frameNotDueIsRefused : Obligations.FrameNotDueIsRefused := by
  unfold Obligations.FrameNotDueIsRefused
  intro f s tx henc h
  rw [exec_frame henc]
  rcases h with notDue | idle
  · exact sendFrame_notDue notDue
  · exact sendFrame_notDue (by simp [State.microOp?_idle idle])

end Sys2Proof.Machine

/-! ### What micro-programs are made of (R99) -/

namespace Sys2Proof.Machine

@[simp] theorem opCounts_append (ops ops' : List MicroOp) :
    opCounts (ops ++ ops') = opCounts ops + opCounts ops' := by
  simp [opCounts]

@[simp] theorem opCounts_writeRegSeq (a v : Byte) : opCounts (writeRegSeq a v) = (2, 0, 0) := rfl
@[simp] theorem opCounts_readRegSeq (a : Byte) : opCounts (readRegSeq a) = (3, 0, 0) := rfl
@[simp] theorem opCounts_readDiagSeq : opCounts readDiagSeq = (2, 0, 0) := rfl
@[simp] theorem opCounts_pin_wait (level : Level) : opCounts [.pin level, .wait] = (0, 1, 1) := rfl

/-- Every micro-operation is an exchange, a pin move or a wait, so the counts add up to the length (R90, R99). -/
theorem length_eq_of_opCounts {ops : List MicroOp} {xfers pins waits : Nat} (h : opCounts ops = (xfers, pins, waits)) :
    ops.length = xfers + pins + waits := by
  induction ops generalizing xfers pins waits with
  | nil => cases h; rfl
  | cons op ops ih =>
    have tail := ih rfl
    cases h
    cases op with
    | xfer | pin | wait => simp at tail ⊢; omega

/-- A row of R99's table, from its counts. -/
theorem counts_and_length {ops : List MicroOp} {xfers pins waits : Nat} (h : opCounts ops = (xfers, pins, waits)) :
    opCounts ops = (xfers, pins, waits) ∧ ops.length = xfers + pins + waits :=
  ⟨h, length_eq_of_opCounts h⟩

/-- An index of 8 to 255 is out of range (R113). -/
theorem outOfRange_eq_true (d : Byte) (h : 7#8 < d) : outOfRange d = true :=
  decide_eq_true h

/-- SETCH in range is a read and a write of OUT (R110). -/
theorem progOf_setch_inRange (a d : Byte) (dr : BitVec 16) (h : d ≤ 7#8) :
    progOf (.setch a d) dr = readRegSeq RegName.out.operand ++
      writeRegSeq RegName.out.operand (setbit (dec dr) (channelIndex d) (onBit a)) := by
  simp [progOf, setchProg, outOfRange_eq_false d h]

/-- CLRERR in range is a write of HWCR_OCL (R111). -/
theorem progOf_clrerr_inRange (a d : Byte) (dr : BitVec 16) (h : d ≤ 7#8) :
    progOf (.clrerr a d) dr = writeRegSeq RegName.hwcrOcl.operand (channelBit (channelIndex d)) := by
  simp [progOf, clrerrProg, outOfRange_eq_false d h]

/-- Out of range neither has a micro-operation (R113). -/
theorem progOf_setch_outOfRange (a d : Byte) (dr : BitVec 16) (h : 7#8 < d) : progOf (.setch a d) dr = [] := by
  simp [progOf, setchProg, outOfRange_eq_true d h]

theorem progOf_clrerr_outOfRange (a d : Byte) (dr : BitVec 16) (h : 7#8 < d) : progOf (.clrerr a d) dr = [] := by
  simp [progOf, clrerrProg, outOfRange_eq_true d h]

/-- Settles O27: each micro-program as the concatenation it is defined to be, its counts the sum of its parts' and its
length the sum of its counts; for SETCH and CLRERR by the bounds test. -/
theorem microProgramLengthsAreStatic : Obligations.MicroProgramLengthsAreStatic := by
  unfold Obligations.MicroProgramLengthsAreStatic
  intro a d dr
  refine ⟨⟨rfl, ?wrreg⟩, ⟨rfl, ?rdreg⟩, ⟨rfl, ?rddiag⟩, fun inRange => ?setch, progOf_setch_outOfRange a d dr,
    fun inRange => ?clrerr, progOf_clrerr_outOfRange a d dr, ⟨rfl, ?clrall⟩, ⟨rfl, ?sleep⟩, ⟨⟨_, rfl⟩, ?active⟩,
    ⟨⟨_, _, _, _, _, _, _, _, _, _, _, _, rfl⟩, ?init⟩⟩
  case wrreg => exact counts_and_length (opCounts_writeRegSeq a d)
  case rdreg => exact counts_and_length (opCounts_readRegSeq a)
  case rddiag => exact counts_and_length opCounts_readDiagSeq
  case setch =>
    rw [progOf_setch_inRange a d dr inRange]
    exact ⟨⟨_, rfl⟩, counts_and_length (by simp)⟩
  case clrerr =>
    rw [progOf_clrerr_inRange a d dr inRange]
    exact ⟨⟨_, rfl⟩, counts_and_length (opCounts_writeRegSeq _ _)⟩
  case clrall => exact counts_and_length (opCounts_writeRegSeq _ _)
  case sleep => exact counts_and_length (by simp [progOf, sleepProg])
  case active => exact counts_and_length (by simp only [progOf, activeProg, opCounts_append, opCounts_pin_wait,
      opCounts_readRegSeq, opCounts_writeRegSeq, Prod.mk_add_mk])
  case init => exact counts_and_length (by simp [progOf, initProg])

end Sys2Proof.Machine

/-! ### The exchanges of a micro-program: frame and tag (R98) -/

namespace Sys2Proof.Machine

/-- The frames of an exchange that leaves PEND at this tag (R92, R94, R96). -/
def Pend.IsFrameOf : Pend → Frame → Prop
  | .none, tx => tx = nopFrame
  | .wrStatus, tx => ∃ a v, tx = encW a v
  | .rdData, tx => ∃ a, tx = encR a
  | .rdTrail, tx => tx = nopFrame
  | .diagWord, tx => tx = Config.diagReqFrame

/-- A micro-operation whose frame, if it has one, is of its tag. -/
def MicroOp.FrameFitsTag : MicroOp → Prop
  | .xfer tx _ tag => tag.IsFrameOf tx
  | .pin _ => True
  | .wait => True

/-- Each exchange of these micro-operations sends a frame of its tag. -/
def FramesFitTags (ops : List MicroOp) : Prop := ∀ op ∈ ops, op.FrameFitsTag

/-- So does each exchange of a micro-program, whatever DR holds. -/
theorem progOf_framesFitTags (i : Instr) (dr : BitVec 16) : FramesFitTags (progOf i dr) := by
  refine progOf_cases FramesFitTags i dr ?_ ?_ ?_ ?_ ?_ ?_ ?_ ?_ <;> intros <;>
    simp [FramesFitTags, MicroOp.FrameFitsTag, Pend.IsFrameOf, writeRegSeq, readRegSeq, readDiagSeq, sleepProg,
      activeProg, initProg]

/-- In R98's table a response is received with a drain frame: the tag after it is none or the read's trailer. -/
theorem eq_nopFrame_of_pend {p tag : Pend} {cap : Capture} {tx : Frame} (row : (p, cap, tag) ∈ exchangeTable)
    (owed : p ≠ .none) (shape : tag.IsFrameOf tx) : tx = nopFrame := by
  have drains : tag = .none ∨ tag = .rdTrail := by cases p <;> simp_all [exchangeTable]
  rcases drains with rfl | rfl <;> exact shape

/-- Settles O28: the exchange's triple is a row of R98's table, and its tag names its frame. -/
theorem pendTransitionsFollowTheTable : Obligations.PendTransitionsFollowTheTable := by
  unfold Obligations.PendTransitionsFollowTheTable
  intro i dr
  refine ⟨pendAfter_progOf i dr, fun k tx cap tag hop => ?_⟩
  have row := progOf_exchange_mem_table i dr k tx cap tag hop
  have shape : tag.IsFrameOf tx := progOf_framesFitTags i dr _ (List.mem_of_getElem? hop)
  refine ⟨row, fun owed => eq_nopFrame_of_pend row owed shape, ?_, ?_, ?_⟩ <;>
  · rintro rfl
    exact shape

end Sys2Proof.Machine

/-! ### The register access commands from Accept to their responses -/

namespace Sys2Proof.Machine

/-- DR after an exchange that captures so (R14, R90). -/
def Capture.drAfter (cap : Capture) (rx : Frame) (dr : BitVec 16) : BitVec 16 :=
  match cap with
  | .drop => dr
  | .data8 => zext16 (dec rx)
  | .data16 => decDiag rx

/-- `s` after exchanges of these frames that all returned, with UPC, DR, PEND and the adapter's answers as they leave
them. -/
def State.afterFrames (s : State) (upc : BitVec 4) (dr : BitVec 16) (pend : Pend) (script : List Answer)
    (frames : List Frame) : State :=
  { s with
    upc := upc
    dr := dr
    pend := pend
    script := script
    draws := s.draws + frames.length
    device := s.device.map (Device.takeAll frames)
    trace := s.trace ++ frames.map .sent }

@[simp] theorem Device.takeAll_nil : Device.takeAll [] = id := rfl

theorem Device.take_takeAll (frames : List Frame) (tx : Frame) :
    Device.take tx ∘ Device.takeAll frames = Device.takeAll (frames ++ [tx]) := by
  funext d
  simp [Device.takeAll]

theorem State.afterFrames_nil (s : State) : s.afterFrames s.upc s.dr s.pend s.script [] = s := by
  simp [State.afterFrames]

/-- One more exchange that returned (R90). -/
theorem xfer_afterFrames (s : State) (upc : BitVec 4) (dr : BitVec 16) (pend : Pend) (rx : Frame) (rest : List Answer)
    (frames : List Frame) (tx : Frame) (cap : Capture) (tag : Pend) :
    xfer tx cap tag (s.afterFrames upc dr pend (.rx rx :: rest) frames) =
      s.afterFrames (upc + 1) (cap.drAfter rx dr) tag rest (frames ++ [tx]) := by
  rw [xfer_rx tx cap tag _ rx rfl]
  cases cap <;>
    simp [State.afterFrames, State.exchanged, State.capture, State.slotTo, Capture.drAfter, Device.take_takeAll,
      Nat.add_assoc]

section Runs
variable {i : Instr} (hc : i.isCommand = true) {s : State} {n : Nat}
include hc

/-- A command's run begins with Accept (R91). -/
theorem execRepeat_accept {script : List Answer} (hp : s.phase = .idle) (hs : s.script = script) :
    execRepeat i (n + 1) s = execRepeat i n ((s.accept (wordOf i)).afterFrames 0 s.dr s.pend script []) := by
  subst hs
  have accepts : exec i s = .next (s.accept (wordOf i)) := by rw [exec_command s i hc, stepCommand_idle _ _ _ _ hp]
  rw [execRepeat_succ i n s _ accepts]
  exact congrArg (execRepeat i n) (State.afterFrames_nil (s.accept (wordOf i))).symm

variable {upc : BitVec 4} {dr : BitVec 16} {pend : Pend} {frames : List Frame}

/-- An exchange that returned takes it one micro-operation on (R90). -/
theorem execRepeat_exchange {rx : Frame} {rest : List Answer} {tx : Frame} {cap : Capture} {tag : Pend}
    (hp : s.phase = .run) (hop : (progOf i dr)[upc.toNat]? = some (.xfer tx cap tag)) :
    execRepeat i (n + 1) (s.afterFrames upc dr pend (.rx rx :: rest) frames) =
      execRepeat i n (s.afterFrames (upc + 1) (cap.drAfter rx dr) tag rest (frames ++ [tx])) := by
  refine execRepeat_succ i n _ _ ?_
  rw [exec_perform i (s.afterFrames upc dr pend (.rx rx :: rest) frames) _ hc hp hop, perform, xfer_afterFrames]

/-- It ends with Complete (R91). -/
theorem execRepeat_complete {script : List Answer} (hp : s.phase = .run) (hend : upc.toNat = (progOf i dr).length) :
    execRepeat i 1 (s.afterFrames upc dr pend script frames) =
      .next ((s.afterFrames upc dr pend script frames).complete (resultOf i dr)) := by
  refine execRepeat_succ i 0 _ _ ?_
  rw [exec_command _ i hc]
  exact stepCommand_complete _ _ _ (s.afterFrames upc dr pend script frames) hp hend

end Runs

/-- What Complete leaves of a command that was Accept, these exchanges and nothing else. -/
theorem complete_afterFrames (s : State) (hp : s.phase = .idle) (w : CmdWord) (upc : BitVec 4) (dr : BitVec 16)
    (script : List Answer) (frames : List Frame) (data : BitVec 16) :
    ((s.accept w).afterFrames upc dr .none script frames).complete data = { s with
      cr := w, dr := dr, upc := 0, pend := .none, script := script, draws := s.draws + frames.length + 1,
      device := s.device.map (Device.takeAll frames),
      trace := s.trace ++ .accepted w :: (frames.map .sent ++
        [.responded ⟨0#2, data, Config.freeFinfo (s.draws + frames.length)⟩]) } := by
  simp [State.complete, State.respond, State.toIdle, State.afterFrames, State.accept, Status.code, hp]

/-- Settles O30: Accept, the two exchanges of `WriteRegSeq`, Complete. -/
theorem wrregRunsToItsResponse : Obligations.WrregRunsToItsResponse := by
  unfold Obligations.WrregRunsToItsResponse
  intro a d s r0 r1 rest hp hs
  let i := Instr.wrreg a d
  let u := s.accept (commandWord 0x2#4 a d)
  refine ⟨Config.freeFinfo (s.draws + 2), s.draws + 2 + 1, ?_⟩
  calc execRepeat i 4 s
    _ = execRepeat i 3 (u.afterFrames 0 s.dr s.pend (.rx r0 :: .rx r1 :: rest) []) := execRepeat_accept rfl hp hs
    _ = execRepeat i 2 (u.afterFrames 1 s.dr .wrStatus (.rx r1 :: rest) [encW a d]) :=
      execRepeat_exchange (cap := .drop) rfl rfl rfl
    _ = execRepeat i 1 (u.afterFrames 2 s.dr .none rest [encW a d, nopFrame]) :=
      execRepeat_exchange (cap := .drop) rfl rfl rfl
    _ = .next ((u.afterFrames 2 s.dr .none rest [encW a d, nopFrame]).complete 0x0000#16) :=
      execRepeat_complete rfl rfl rfl
    _ = _ := congrArg Host.Outcome.next (complete_afterFrames s hp ..)

/-- Settles O31: Accept, the three exchanges of `ReadRegSeq`, the second of which captures a byte, Complete. -/
theorem rdregRunsToItsResponse : Obligations.RdregRunsToItsResponse := by
  unfold Obligations.RdregRunsToItsResponse
  intro a d s r0 r1 r2 rest hp hs
  let i := Instr.rdreg a d
  let u := s.accept (commandWord 0x1#4 a d)
  let read := zext16 (dec r1)
  refine ⟨Config.freeFinfo (s.draws + 3), s.draws + 3 + 1, ?_⟩
  calc execRepeat i 5 s
    _ = execRepeat i 4 (u.afterFrames 0 s.dr s.pend (.rx r0 :: .rx r1 :: .rx r2 :: rest) []) :=
      execRepeat_accept rfl hp hs
    _ = execRepeat i 3 (u.afterFrames 1 s.dr .rdData (.rx r1 :: .rx r2 :: rest) [encR a]) :=
      execRepeat_exchange (cap := .drop) rfl rfl rfl
    _ = execRepeat i 2 (u.afterFrames 2 read .rdTrail (.rx r2 :: rest) [encR a, nopFrame]) :=
      execRepeat_exchange (cap := .data8) rfl rfl rfl
    _ = execRepeat i 1 (u.afterFrames 3 read .none rest [encR a, nopFrame, nopFrame]) :=
      execRepeat_exchange (cap := .drop) rfl rfl rfl
    _ = .next ((u.afterFrames 3 read .none rest [encR a, nopFrame, nopFrame]).complete read) :=
      execRepeat_complete rfl rfl rfl
    _ = _ := congrArg Host.Outcome.next (complete_afterFrames s hp ..)

/-- Settles O32: Accept, the two exchanges of `ReadDiagSeq`, the second of which captures the word, Complete. -/
theorem rddiagRunsToItsResponse : Obligations.RddiagRunsToItsResponse := by
  unfold Obligations.RddiagRunsToItsResponse
  intro a d s r0 r1 rest hp hs
  let i := Instr.rddiag a d
  let u := s.accept (commandWord 0x3#4 a d)
  refine ⟨Config.freeFinfo (s.draws + 2), s.draws + 2 + 1, ?_⟩
  calc execRepeat i 4 s
    _ = execRepeat i 3 (u.afterFrames 0 s.dr s.pend (.rx r0 :: .rx r1 :: rest) []) := execRepeat_accept rfl hp hs
    _ = execRepeat i 2 (u.afterFrames 1 s.dr .diagWord (.rx r1 :: rest) [Config.diagReqFrame]) :=
      execRepeat_exchange (cap := .drop) rfl rfl rfl
    _ = execRepeat i 1 (u.afterFrames 2 r1 .none rest [Config.diagReqFrame, nopFrame]) :=
      execRepeat_exchange (cap := .data16) rfl rfl rfl
    _ = .next ((u.afterFrames 2 r1 .none rest [Config.diagReqFrame, nopFrame]).complete r1) :=
      execRepeat_complete rfl rfl rfl
    _ = _ := congrArg Host.Outcome.next (complete_afterFrames s hp ..)

end Sys2Proof.Machine

/-! ### The channel commands from Accept to their responses -/

namespace Sys2Proof.Machine

/-- A micro-operation of a sequence, at its place in the micro-program. -/
theorem getElem?_of_middle {prog pre ops post : List MicroOp} (hprog : prog = pre ++ (ops ++ post)) {j : Nat}
    (hj : j < ops.length) : prog[pre.length + j]? = ops[j]? := by
  rw [hprog, List.getElem?_append_right (Nat.le_add_right _ j), Nat.add_sub_cancel_left, List.getElem?_append_left hj]

section Sequences
variable {i : Instr} (hc : i.isCommand = true) {s : State} (hp : s.phase = .run) {n : Nat} {upc : BitVec 4}
  {dr : BitVec 16} {pend : Pend} {frames : List Frame} {pre : List MicroOp} (hupc : upc.toNat = pre.length)
include hc hp hupc

/-- `WriteRegSeq(a, v)` where it stands in a micro-program, its exchanges returning (R92). -/
theorem execRepeat_writeRegSeq {a v : Byte} {r0 r1 : Frame} {rest : List Answer} {post : List MicroOp}
    (hprog : progOf i dr = pre ++ (writeRegSeq a v ++ post)) :
    execRepeat i (n + 2) (s.afterFrames upc dr pend (.rx r0 :: .rx r1 :: rest) frames) =
      execRepeat i n (s.afterFrames (upc + 1 + 1) dr .none rest (frames ++ [encW a v] ++ [nopFrame])) := by
  have write : (progOf i dr)[upc.toNat]? = some (.xfer (encW a v) .drop .wrStatus) :=
    hupc ▸ getElem?_of_middle hprog (j := 0) (by decide : 0 < 2)
  have drain : (progOf i dr)[(upc + 1).toNat]? = some (.xfer nopFrame .drop .none) := by
    rw [toNat_upc_succ i dr upc _ write, hupc]
    exact getElem?_of_middle hprog (by decide : 1 < 2)
  rw [execRepeat_exchange hc hp write]
  exact execRepeat_exchange hc (cap := .drop) hp drain

/-- `ReadRegSeq(a)` where it stands in a micro-program, its exchanges returning: DR holds the byte of the second (R94).
What follows it in the micro-program may depend on DR. -/
theorem execRepeat_readRegSeq {a : Byte} {r0 r1 r2 : Frame} {rest : List Answer} {post : BitVec 16 → List MicroOp}
    (hprog : ∀ x, progOf i x = pre ++ (readRegSeq a ++ post x)) :
    execRepeat i (n + 3) (s.afterFrames upc dr pend (.rx r0 :: .rx r1 :: .rx r2 :: rest) frames) =
      execRepeat i n (s.afterFrames (upc + 1 + 1 + 1) (zext16 (dec r1)) .none rest
        (frames ++ [encR a] ++ [nopFrame] ++ [nopFrame])) := by
  have request : (progOf i dr)[upc.toNat]? = some (.xfer (encR a) .drop .rdData) :=
    hupc ▸ getElem?_of_middle (hprog dr) (j := 0) (by decide : 0 < 3)
  have second := toNat_upc_succ i dr upc _ request
  have answer (x : BitVec 16) : (progOf i x)[(upc + 1).toNat]? = some (.xfer nopFrame .data8 .rdTrail) := by
    rw [second, hupc]
    exact getElem?_of_middle (hprog x) (by decide : 1 < 3)
  have drain (x : BitVec 16) : (progOf i x)[(upc + 1 + 1).toNat]? = some (.xfer nopFrame .drop .none) := by
    rw [toNat_upc_succ i x (upc + 1) _ (answer x), second, hupc]
    exact getElem?_of_middle (hprog x) (by decide : 2 < 3)
  rw [execRepeat_exchange hc hp request]
  refine (execRepeat_exchange hc hp (answer dr)).trans ?_
  exact execRepeat_exchange hc (cap := .drop) hp (drain _)

end Sequences

/-- A command that is one register write, from Accept to its response (R92, R111, R112). -/
theorem execRepeat_oneWrite (i : Instr) (hc : i.isCommand = true) (s : State) (a v : Byte) (r0 r1 : Frame)
    (rest : List Answer) (hp : s.phase = .idle) (hs : s.script = .rx r0 :: .rx r1 :: rest)
    (hprog : progOf i s.dr = writeRegSeq a v) :
    execRepeat i 4 s = .next { s with
      cr := wordOf i, upc := 0, pend := .none, script := rest, draws := s.draws + 2 + 1,
      device := s.device.map (Device.takeAll [encW a v, nopFrame]),
      trace := s.trace ++ [.accepted (wordOf i), .sent (encW a v), .sent nopFrame,
        .responded ⟨0#2, resultOf i s.dr, Config.freeFinfo (s.draws + 2)⟩] } := by
  have twoOps : (2#4).toNat = (progOf i s.dr).length := congrArg List.length hprog.symm
  rw [execRepeat_accept hc hp hs, execRepeat_writeRegSeq hc rfl (pre := []) rfl (hprog.trans (List.append_nil _).symm)]
  refine (execRepeat_complete hc (upc := 2#4) rfl twoOps).trans ?_
  exact congrArg Host.Outcome.next (complete_afterFrames s hp ..)

/-- A command with no micro-operation, from Accept to its response: no exchange, and only CR changes (R113). -/
theorem execRepeat_emptyProgram (i : Instr) (hc : i.isCommand = true) (s : State) (hp : s.phase = .idle)
    (hupc : s.upc = 0) (hprog : progOf i s.dr = []) :
    execRepeat i 2 s = .next { s with
      cr := wordOf i, draws := s.draws + 1,
      trace := s.trace ++ [.accepted (wordOf i), .responded ⟨0#2, resultOf i s.dr, Config.freeFinfo s.draws⟩] } := by
  have noOps : (0#4).toNat = (progOf i s.dr).length := congrArg List.length hprog.symm
  rw [execRepeat_accept hc hp rfl]
  refine (execRepeat_complete hc (upc := 0#4) rfl noOps).trans ?_
  simp [State.complete, State.respond, State.toIdle, State.afterFrames, State.accept, Status.code, hp, hupc]

/-- Settles O33: Accept, `ReadRegSeq` of OUT, `WriteRegSeq` of the byte read with its one bit set or cleared, Complete. -/
theorem setchRunsToItsResponse : Obligations.SetchRunsToItsResponse := by
  unfold Obligations.SetchRunsToItsResponse
  intro a d s r0 r1 r2 r3 r4 rest hp inRange hs
  let i := Instr.setch a d
  let u := s.accept (commandWord 0x4#4 a d)
  let read := zext16 (dec r1)
  let readFrames := [encR RegName.out.operand, nopFrame, nopFrame]
  let new := setbit (dec r1) (channelIndex d) (onBit a)
  let writeFrames := [encW RegName.out.operand new, nopFrame]
  have prog (x : BitVec 16) := progOf_setch_inRange a d x inRange
  have prog' : progOf i read =
      readRegSeq RegName.out.operand ++ (writeRegSeq RegName.out.operand new ++ []) := by
    rw [prog, dec_zext16, List.append_nil]
  refine ⟨Config.freeFinfo (s.draws + 5), s.draws + 5 + 1, ?_⟩
  calc execRepeat i 7 s
    _ = execRepeat i 6 (u.afterFrames 0 s.dr s.pend (.rx r0 :: .rx r1 :: .rx r2 :: .rx r3 :: .rx r4 :: rest) []) :=
      execRepeat_accept rfl hp hs
    _ = execRepeat i 3 (u.afterFrames 3 read .none (.rx r3 :: .rx r4 :: rest) readFrames) :=
      execRepeat_readRegSeq rfl rfl (pre := []) rfl prog
    _ = execRepeat i 1 (u.afterFrames 5 read .none rest (readFrames ++ writeFrames)) :=
      execRepeat_writeRegSeq rfl rfl rfl prog'
    _ = .next ((u.afterFrames 5 read .none rest (readFrames ++ writeFrames)).complete 0x0000#16) :=
      execRepeat_complete rfl rfl (congrArg List.length prog').symm
    _ = _ := congrArg Host.Outcome.next (complete_afterFrames s hp ..)

/-- The write frame of one latch of HWCR_OCL (R23, R111). -/
theorem encW_hwcrOcl_channelBit (d : Byte) (inRange : d ≤ 7#8) :
    encW RegName.hwcrOcl.operand (channelBit (channelIndex d)) = 0x8D00#16 ||| (1#16 <<< d.toNat) := by
  have inFrame : d.toNat < 16 := Nat.lt_of_le_of_lt inRange (by decide)
  have bit : (channelBit (channelIndex d)).setWidth 16 = 1#16 <<< d.toNat := by
    apply BitVec.eq_of_getLsbD_eq
    intro j hj
    rw [BitVec.getLsbD_setWidth, getLsbD_channelBit, channelIndex_toNat d inRange, ← BitVec.twoPow_eq,
      BitVec.getLsbD_twoPow]
    simp [hj, inFrame, eq_comm]
  exact congrArg (0x8D00#16 ||| ·) bit

/-- Settles O35: CLRERR in range is one register write, of the channel's bit to HWCR_OCL. -/
theorem clrerrRunsToItsResponse : Obligations.ClrerrRunsToItsResponse := by
  unfold Obligations.ClrerrRunsToItsResponse
  intro a d s r0 r1 rest hp inRange hs
  rw [← encW_hwcrOcl_channelBit d inRange]
  exact ⟨_, _, execRepeat_oneWrite (.clrerr a d) rfl s _ _ r0 r1 rest hp hs (progOf_clrerr_inRange a d s.dr inRange)⟩

/-- Settles O36: CLRALL is one register write, of 0xFF to HWCR_OCL. -/
theorem clrallRunsToItsResponse : Obligations.ClrallRunsToItsResponse := by
  unfold Obligations.ClrallRunsToItsResponse
  intro a d s r0 r1 rest hp hs
  exact ⟨_, _, execRepeat_oneWrite (.clrall a d) rfl s RegName.hwcrOcl.operand 0xFF#8 r0 r1 rest hp hs rfl⟩

/-- Settles O34: the bounds test on the whole index field decides whether there is a micro-program, and a command
without one completes right after Accept. -/
theorem outOfRangeIndexIsANoOp : Obligations.OutOfRangeIndexIsANoOp := by
  unfold Obligations.OutOfRangeIndexIsANoOp
  intro a d s hp hupc
  refine ⟨fun inRange => ?_, fun above => ?_⟩
  · rw [progOf_setch_inRange a d s.dr inRange, progOf_clrerr_inRange a d s.dr inRange]
    exact ⟨List.cons_ne_nil _ _, List.cons_ne_nil _ _⟩
  · have setch := progOf_setch_outOfRange a d s.dr above
    have clrerr := progOf_clrerr_outOfRange a d s.dr above
    exact ⟨setch, clrerr, ⟨_, _, execRepeat_emptyProgram (.setch a d) rfl s hp hupc setch⟩,
      ⟨_, _, execRepeat_emptyProgram (.clrerr a d) rfl s hp hupc clrerr⟩⟩

end Sys2Proof.Machine

/-! ### SETCH, with the assumed device at the far end -/

namespace Sys2Proof.Machine

/-- A write does not make a register ordinary or cease to be so. -/
@[simp] theorem Device.takeWrite_keepsOrdinary (d : Device) (a : RegAddr) (v : Byte) :
    (d.takeWrite a v).ordinary = d.ordinary := by
  unfold Device.takeWrite
  split
  · rfl
  · split <;> rfl

/-- OUT is not the register whose bits a write of ones clears (R20). -/
theorem RegName.out_ne_hwcrOcl : RegName.out.addr ≠ RegName.hwcrOcl.addr := by decide

/-- The device after SETCH of the channel `d`: OUT written with one bit of `old` set or cleared (R110). -/
def Device.afterSetch (dev : Device) (a d old : Byte) : Device :=
  ({ dev with owed := none } : Device).takeWrite RegName.out.addr (setbit old (channelIndex d) (onBit a))

/-- SETCH makes OUT the old content with its one bit as told (R110, R40). -/
theorem Device.afterSetch_out (dev : Device) (a d old : Byte) (ordinary : RegName.out.addr ∈ dev.ordinary) :
    (dev.afterSetch a d old).regs.read RegName.out.addr = some (setbit old (channelIndex d) (onBit a)) :=
  Device.takeWrite_ordinary _ _ _ RegName.out_ne_hwcrOcl ordinary

/-- And leaves every other register. -/
theorem Device.afterSetch_other (dev : Device) (a d old : Byte) (r : RegAddr) (h : r ≠ RegName.out.addr) :
    (dev.afterSetch a d old).regs.read r = dev.regs.read r :=
  Device.takeWrite_other _ _ _ _ h

/-- OUT stays as ordinary as it was, so another SETCH can follow. -/
theorem Device.afterSetch_keepsOrdinary (dev : Device) (a d old : Byte) :
    (dev.afterSetch a d old).ordinary = dev.ordinary :=
  Device.takeWrite_keepsOrdinary _ _ _

/-- SETCH in range from Accept to its response: it reads the content of OUT, and the device takes the write of that
content with one bit changed (R110). -/
theorem execRepeat_setch_inRange (a d old : Byte) (s : State) (dev : Device) (hp : s.phase = .idle)
    (far : s.FarEndIs dev) (known : dev.regs.read RegName.out.addr = some old) (inRange : d ≤ 7#8) :
    ∃ t, execRepeat (.setch a d) 7 s = .next t ∧ t.phase = .idle ∧ t.FarEndIs (dev.afterSetch a d old) := by
  have prog (x : BitVec 16) := progOf_setch_inRange a d x inRange
  have prog' : progOf (.setch a d) (zext16 old) = readRegSeq RegName.out.operand ++
      (writeRegSeq RegName.out.operand (setbit old (channelIndex d) (onBit a)) ++ []) := by
    rw [prog, dec_zext16, List.append_nil]
  obtain ⟨t, ht, accepted⟩ := exec_accept_runsAt (.setch a d) rfl s dev hp far
  obtain ⟨u, hu, read⟩ := accepted.execRepeat_readRegSeq (.setch a d) rfl _ old [] _ prog rfl known 3
  obtain ⟨v, hv, written⟩ := read.execRepeat_writeRegSeq (.setch a d) rfl _ _ _ [] prog' rfl 1
  have fiveOps : 0 + 3 + 2 = (progOf (.setch a d) (zext16 old)).length := (congrArg List.length prog').symm
  obtain ⟨w, _, hw, idle, farEnd, -⟩ := State.RunsAt.exec_complete (.setch a d) rfl (fiveOps ▸ written)
  exact ⟨w, by rw [execRepeat_succ _ 6 s t ht, hu, hv, execRepeat_succ _ 0 v w hw]; rfl, idle, farEnd⟩

/-- SETCH out of range from Accept to its response: the device is where it was (R113). -/
theorem execRepeat_setch_outOfRange (a d : Byte) (s : State) (dev : Device) (hp : s.phase = .idle)
    (far : s.FarEndIs dev) (above : 7#8 < d) :
    ∃ t, execRepeat (.setch a d) 2 s = .next t ∧ t.FarEndIs dev := by
  obtain ⟨t, ht, accepted⟩ := exec_accept_runsAt (.setch a d) rfl s dev hp far
  have noOps : 0 = (progOf (.setch a d) s.dr).length :=
    (congrArg List.length (progOf_setch_outOfRange a d s.dr above)).symm
  obtain ⟨u, _, hu, -, farEnd, -⟩ := State.RunsAt.exec_complete (.setch a d) rfl (noOps ▸ accepted)
  exact ⟨u, by rw [execRepeat_succ _ 1 s t ht, execRepeat_succ _ 0 t u hu]; rfl, farEnd⟩

/-- Settles O54: in range the device took one write of OUT, out of range nothing. -/
theorem setchSetsOneBitOfOut : Obligations.SetchSetsOneBitOfOut := by
  unfold Obligations.SetchSetsOneBitOfOut
  intro a d old s dev hp far ordinary known
  by_cases inRange : d ≤ 7#8
  · obtain ⟨t, ht, -, -, isDevice, -, -⟩ := execRepeat_setch_inRange a d old s dev hp far known inRange
    simp only [if_pos inRange]
    exact ⟨t, _, ht, isDevice, dev.afterSetch_out a d old ordinary, dev.afterSetch_other a d old⟩
  · obtain ⟨t, ht, -, isDevice, -, -⟩ :=
      execRepeat_setch_outOfRange a d s dev hp far (BitVec.not_le.mp inRange)
    simp only [if_neg inRange]
    exact ⟨t, dev, ht, isDevice, known, fun _ _ => rfl⟩

/-- Settles O55: the second SETCH reads the OUT the first wrote, and each changes its own bit alone. -/
theorem setchBitIsolation : Obligations.SetchBitIsolation := by
  unfold Obligations.SetchBitIsolation
  intro i j old s dev hp far ordinary known hi hj distinct
  have distinctBits : i.toNat ≠ j.toNat := fun same => distinct (BitVec.eq_of_toNat_eq same)
  obtain ⟨t, ht, idle, far'⟩ := execRepeat_setch_inRange 0x01#8 i old s dev hp far known hi
  have set := dev.afterSetch_out 0x01#8 i old ordinary
  obtain ⟨u, hu, -, -, isDevice, -, -⟩ := execRepeat_setch_inRange 0x00#8 j _ t _ idle far' set hj
  have ordinary' := (dev.afterSetch_keepsOrdinary 0x01#8 i old).symm ▸ ordinary
  have cleared := Device.afterSetch_out _ 0x00#8 j (setbit old (channelIndex i) (onBit 0x01#8)) ordinary'
  refine ⟨t, u, _, _, ht, hu, isDevice, cleared, ?_, ?_, fun k notI notJ => ?_⟩ <;>
    rw [getLsbD_setbit, getLsbD_setbit, channelIndex_toNat i hi, channelIndex_toNat j hj]
  · rw [if_neg distinctBits, if_pos rfl]; rfl
  · rw [if_pos rfl]; rfl
  · rw [if_neg notJ, if_neg notI]

end Sys2Proof.Machine

/-! ### A pin move and its wait, and several steps of one command -/

namespace Sys2Proof.Machine

/-- `s` after `PIN(level)` and a `WAIT` that ended: the device saw the line, UPC counted twice (R90). -/
def State.afterLine (level : Level) (s : State) : State :=
  { s with
    upc := s.upc + 1 + 1
    mode := level
    settle := s.settle.tail
    device := s.device.map (Device.lineMoves s.mode level)
    trace := s.trace ++ [.pin level, .settled] }

/-- The two micro-operations, the wait over, leave that state. -/
theorem waitOp_pinOp (s : State) (level : Level) (ended : s.WaitOver) : waitOp (pinOp level s) = s.afterLine level := by
  rw [waitOp_over (pinOp level s) ended]
  simp [State.afterLine, pinOp, State.driveLine, State.log, State.countUpc, State.waitSettle]

/-- Two micro-operations where they stand in a micro-program, and UPC after them. -/
theorem twoOps_at (i : Instr) (dr : BitVec 16) (upc : BitVec 4) {op0 op1 : MicroOp} {pre post : List MicroOp}
    (hprog : progOf i dr = pre ++ ([op0, op1] ++ post)) (hupc : upc.toNat = pre.length) :
    (progOf i dr)[upc.toNat]? = some op0 ∧ (progOf i dr)[(upc + 1).toNat]? = some op1 ∧
      (upc + 1 + 1).toNat = pre.length + 2 := by
  have first : (progOf i dr)[upc.toNat]? = some op0 := hupc ▸ getElem?_of_middle hprog (j := 0) (by decide : 0 < 2)
  have next := toNat_upc_succ i dr upc _ first
  have second : (progOf i dr)[(upc + 1).toNat]? = some op1 := by
    rw [next, hupc]
    exact getElem?_of_middle hprog (by decide : 1 < 2)
  exact ⟨first, second, by rw [toNat_upc_succ i dr (upc + 1) _ second, next, hupc]⟩

/-- A pin move and its wait where they stand in a micro-program, the wait over (R90, R120, R121). -/
theorem execRepeat_pinWait {i : Instr} (hc : i.isCommand = true) {s : State} {n : Nat} (hp : s.phase = .run)
    (ended : s.WaitOver) {level : Level} {pre post : List MicroOp}
    (hprog : progOf i s.dr = pre ++ ([.pin level, .wait] ++ post)) (hupc : s.upc.toNat = pre.length) :
    execRepeat i (n + 2) s = execRepeat i n (s.afterLine level) := by
  obtain ⟨pin, wait, -⟩ := twoOps_at i s.dr s.upc hprog hupc
  have atWait : exec i (pinOp level s) = .next (s.afterLine level) := by
    rw [← waitOp_pinOp s level ended]
    exact exec_perform i (pinOp level s) _ hc hp wait
  exact (execRepeat_succ i (n + 1) s _ (exec_perform i s _ hc hp pin)).trans (execRepeat_succ i n _ _ atWait)

/-- The last step of a command (R91). -/
theorem execRepeat_one_complete {i : Instr} (hc : i.isCommand = true) {s : State} (hp : s.phase = .run)
    (hend : s.upc.toNat = (progOf i s.dr).length) :
    execRepeat i 1 s = .next (s.complete (resultOf i s.dr)) := by
  refine execRepeat_succ i 0 s _ ?_
  rw [exec_command s i hc]
  exact stepCommand_complete _ _ _ s hp hend

/-- Several steps of a command that answer next begin with one that does. -/
theorem execRepeat_succ_inv (i : Instr) (n : Nat) (s t : State) (h : execRepeat i (n + 1) s = .next t) :
    ∃ u, exec i s = .next u ∧ execRepeat i n u = .next t := by
  cases hstep : exec i s with
  | next u => exact ⟨u, rfl, execRepeat_succ i n s u hstep ▸ h⟩
  | fault r => simp [execRepeat, hstep] at h
  | refused r => simp [execRepeat, hstep] at h

/-- Steps of a command after steps of it. -/
theorem execRepeat_add (i : Instr) (m n : Nat) (s t : State) (h : execRepeat i m s = .next t) :
    execRepeat i (m + n) s = execRepeat i n t := by
  induction m generalizing s with
  | zero => cases h; rw [Nat.zero_add]
  | succ m ih =>
    obtain ⟨u, hstep, hrest⟩ := execRepeat_succ_inv i m s t h
    rw [Nat.add_right_comm, execRepeat_succ i (m + n) s u hstep, ih u hrest]

/-- What each step of a command keeps, all its steps keep. -/
theorem execRepeat_keeps (i : Instr) (P : State → Prop) (keeps : ∀ s t, P s → exec i s = .next t → P t)
    (n : Nat) (s t : State) (hs : P s) (h : execRepeat i n s = .next t) : P t := by
  induction n generalizing s with
  | zero => cases h; exact hs
  | succ n ih =>
    obtain ⟨u, hstep, hrest⟩ := execRepeat_succ_inv i n s t h
    exact ih u (keeps s u hs hstep) hrest

/-- All a command's step can do (R91). -/
theorem exec_command_cases (i : Instr) (hc : i.isCommand = true) (s t : State) (h : exec i s = .next t) :
    t = s.accept (wordOf i) ∨ (∃ op ∈ progOf i s.dr, t = perform op s) ∨ t = s.complete (resultOf i s.dr) := by
  rw [exec_command s i hc] at h
  rcases stepCommand_cases s t _ _ _ h with ⟨-, ht⟩ | ⟨-, op, hop, ht⟩ | ⟨-, -, ht⟩
  · exact .inl ht
  · exact .inr (.inl ⟨op, List.mem_of_getElem? hop, ht⟩)
  · exact .inr (.inr ht)

/-- A delay element with nothing more to say stays so. -/
theorem perform_keeps_settle_nil (op : MicroOp) (s : State) (h : s.settle = []) : (perform op s).settle = [] := by
  cases op with
  | xfer tx cap tag =>
    rcases xfer_cases s tx cap tag with ⟨w, _, hx⟩ | ⟨info, delivered, _, hx⟩ | ⟨_, hx⟩ | ⟨_, hx⟩ <;>
      simp [perform, hx, h]
  | pin level => exact h
  | wait => simp [perform, waitOp_over s (.inl h), h]

theorem exec_keeps_settle_nil (i : Instr) (hc : i.isCommand = true) (s t : State) (h : s.settle = [])
    (hstep : exec i s = .next t) : t.settle = [] := by
  rcases exec_command_cases i hc s t hstep with rfl | ⟨op, -, rfl⟩ | rfl
  · exact h
  · exact perform_keeps_settle_nil op s h
  · exact h

/-- No step of ACTIVE takes the line down (R121). -/
theorem exec_active_keeps_mode (a d : Byte) (s t : State) (h : s.mode = 1) (hstep : exec (.active a d) s = .next t) :
    t.mode = 1 := by
  rcases exec_command_cases (.active a d) rfl s t hstep with rfl | ⟨op, hop, rfl⟩ | rfl
  · exact h
  · rcases perform_mode op s with ⟨level, rfl, moved⟩ | same
    · rcases pin_mem_progOf _ _ level hop with ⟨_, _, isSleep, -⟩ | ⟨_, _, -, high⟩
      · cases isSleep
      · exact moved.trans high
    · exact same.trans h
  · exact h

end Sys2Proof.Machine

/-! ### ACTIVE and SLEEP, with the assumed device at the far end -/

namespace Sys2Proof.Machine

/-- Raising the line of an awake device leaves it where it was (R121). -/
theorem State.FarEndIs.afterLine_high {s : State} {d : Device} (far : s.FarEndIs d) : (s.afterLine 1).FarEndIs d := by
  obtain ⟨noScript, isDevice, awake, quiet⟩ := far
  exact ⟨noScript, by
    rw [State.afterLine, isDevice, Option.map_some, d.lineMoves_high s.mode awake], awake, quiet⟩

/-- A falling line changes no register: the model's choice, log entry 17. -/
theorem Device.lineMoves_low_regs (d : Device) (old : Level) : (d.lineMoves old 0).regs = d.regs := by
  unfold Device.lineMoves
  split
  · rfl
  · rw [if_neg (fun rises => absurd rises.2.1 (by decide))]

/-- ACTIVE's micro-program (R121), whatever DR holds. -/
theorem progOf_active (a d : Byte) (dr : BitVec 16) :
    progOf (.active a d) dr = [.pin 1, .wait] ++ (readRegSeq RegName.hwcr.operand ++
      writeRegSeq RegName.hwcr.operand (dec dr ||| Config.hwcrActMask)) := rfl

/-- It with the byte read in DR, as it stands at its register write. -/
theorem progOf_active_zext16 (a d h : Byte) :
    progOf (.active a d) (zext16 h) = ([.pin 1, .wait] ++ readRegSeq RegName.hwcr.operand) ++
      (writeRegSeq RegName.hwcr.operand (h ||| Config.hwcrActMask) ++ []) := by
  rw [progOf_active, dec_zext16, List.append_nil, List.append_assoc]

/-- HWCR is not the register whose bits a write of ones clears (R20). -/
theorem RegName.hwcr_ne_hwcrOcl : RegName.hwcr.addr ≠ RegName.hwcrOcl.addr := by decide

/-- The device after ACTIVE found `h` in HWCR: ACT set, the other bits written back (R121). -/
def Device.afterActive (dev : Device) (h : Byte) : Device :=
  ({ dev with owed := none } : Device).takeWrite RegName.hwcr.addr (h ||| Config.hwcrActMask)

theorem Device.afterActive_hwcr (dev : Device) (h : Byte) (ordinary : RegName.hwcr.addr ∈ dev.ordinary) :
    (dev.afterActive h).regs.read RegName.hwcr.addr = some (h ||| Config.hwcrActMask) :=
  Device.takeWrite_ordinary _ _ _ RegName.hwcr_ne_hwcrOcl ordinary

/-- HWCR stays as ordinary as it was, so another ACTIVE can follow. -/
theorem Device.afterActive_keepsOrdinary (dev : Device) (h : Byte) : (dev.afterActive h).ordinary = dev.ordinary :=
  Device.takeWrite_keepsOrdinary _ _ _

/-- ACTIVE from Accept to its response, the settle delay over: the line high, and the device has taken the write of
HWCR's own content with ACT set (R121). -/
theorem execRepeat_active (a d h : Byte) (s : State) (dev : Device) (hp : s.phase = .idle) (settled : s.settle = [])
    (far : s.FarEndIs dev) (known : dev.regs.read RegName.hwcr.addr = some h) :
    ∃ t, execRepeat (.active a d) 9 s = .next t ∧ t.phase = .idle ∧ t.settle = [] ∧ t.mode = 1 ∧
      t.FarEndIs (dev.afterActive h) := by
  let i := Instr.active a d
  have prog (x : BitVec 16) : progOf i x = _ := progOf_active a d x
  have prog' : progOf i (zext16 h) = _ := progOf_active_zext16 a d h
  obtain ⟨t, ht, hrun, hupc, hdr, tFar⟩ := exec_accept_runsAt i rfl s dev hp far
  have tSettled := exec_keeps_settle_nil i rfl s t settled ht
  have raised : execRepeat i 8 t = execRepeat i 6 (t.afterLine 1) :=
    execRepeat_pinWait rfl hrun (.inl tSettled) (pre := []) (prog t.dr) hupc
  obtain ⟨-, -, upc2⟩ := twoOps_at i t.dr t.upc (pre := []) (prog t.dr) hupc
  have atRead : (t.afterLine 1).RunsAt 2 s.dr dev := ⟨hrun, upc2, hdr, tFar.afterLine_high⟩
  obtain ⟨u, hu, atWrite⟩ := atRead.execRepeat_readRegSeq i rfl _ h [.pin 1, .wait] _ prog rfl known 3
  obtain ⟨v, hv, atEnd⟩ := atWrite.execRepeat_writeRegSeq i rfl _ _ _ [] prog' rfl 1
  obtain ⟨w, _, hw, idle, wFar, -⟩ := State.RunsAt.exec_complete i rfl atEnd
  have rest : execRepeat i 6 (t.afterLine 1) = .next w := by
    rw [hu, hv, execRepeat_succ i 0 v w hw]; rfl
  refine ⟨w, ((execRepeat_succ i 8 s t ht).trans raised).trans rest, idle, ?_, ?_, wFar⟩
  · exact execRepeat_keeps i (·.settle = []) (exec_keeps_settle_nil i rfl) 6 _ w (congrArg List.tail tSettled) rest
  · exact execRepeat_keeps i (·.mode = 1) (exec_active_keeps_mode a d) 6 (t.afterLine 1) w rfl rest

/-- Settles O56: the second ACTIVE reads the HWCR the first wrote, and setting ACT there changes nothing. -/
theorem activeTwiceIsActiveOnce : Obligations.ActiveTwiceIsActiveOnce := by
  unfold Obligations.ActiveTwiceIsActiveOnce
  intro a d h s dev hp settled far ordinary known
  obtain ⟨t, ht, idle, tSettled, high, tFar⟩ := execRepeat_active a d h s dev hp settled far known
  have once := dev.afterActive_hwcr h ordinary
  obtain ⟨u, hu, -, -, high', -, isDevice', -, -⟩ := execRepeat_active a d _ t _ idle tSettled tFar once
  have ordinary' := (dev.afterActive_keepsOrdinary h).symm ▸ ordinary
  have twice := Device.afterActive_hwcr (dev.afterActive h) (h ||| Config.hwcrActMask) ordinary'
  obtain ⟨-, isDevice, -, -⟩ := tFar
  refine ⟨t, u, _, _, ht, isDevice, high, once, hu, isDevice', high', ?_⟩
  rw [twice, once, BitVec.or_assoc, BitVec.or_self]

/-- SLEEP from Accept to its response, the settle delay over: the line low, and the device had taken the write of 0 to
OUT before it saw it fall (R120). -/
theorem execRepeat_sleep (a d : Byte) (s : State) (dev : Device) (hp : s.phase = .idle) (settled : s.settle = [])
    (far : s.FarEndIs dev) :
    ∃ t old, execRepeat (.sleep a d) 6 s = .next t ∧ t.mode = 0 ∧
      t.device = some ((dev.takeWrite RegName.out.addr 0x00#8).lineMoves old 0) := by
  let i := Instr.sleep a d
  obtain ⟨t, ht, accepted⟩ := exec_accept_runsAt i rfl s dev hp far
  obtain ⟨u, hu, atPin⟩ := accepted.execRepeat_writeRegSeq i rfl RegName.out.operand 0x00#8 [] _ rfl rfl 0
  have written : execRepeat i 3 s = .next u := (execRepeat_succ i 2 s t ht).trans hu
  have uSettled := execRepeat_keeps i (·.settle = []) (exec_keeps_settle_nil i rfl) 3 s u settled written
  obtain ⟨hrun, hupc, -, -, isDevice, -, -⟩ := atPin
  let pre := writeRegSeq RegName.out.operand 0x00#8
  have lowered : execRepeat i 3 u = execRepeat i 1 (u.afterLine 0) :=
    execRepeat_pinWait rfl hrun (.inl uSettled) (pre := pre) (post := []) rfl hupc
  obtain ⟨-, -, upc4⟩ := twoOps_at i u.dr u.upc (pre := pre) (post := []) rfl hupc
  have completed := execRepeat_one_complete (i := i) rfl (s := u.afterLine 0) hrun upc4
  exact ⟨_, u.mode, (execRepeat_add i 3 3 s u written).trans (lowered.trans completed), rfl,
    congrArg (Option.map _) isDevice⟩

/-- Settles O58: OUT was written 0 while the device was awake, and the falling line leaves it. -/
theorem sleepForcesOutputsOff : Obligations.SleepForcesOutputsOff := by
  unfold Obligations.SleepForcesOutputsOff
  intro a d s dev hp settled far ordinary
  obtain ⟨t, old, ht, low, isDevice⟩ := execRepeat_sleep a d s dev hp settled far
  refine ⟨t, _, ht, low, isDevice, ?_⟩
  rw [Device.lineMoves_low_regs]
  exact dev.takeWrite_ordinary _ _ RegName.out_ne_hwcrOcl ordinary

end Sys2Proof.Machine

/-! ### The lifecycle commands from Accept to their responses -/

namespace Sys2Proof.Machine

/-- What Complete leaves of a command that was Accept, these exchanges, and the line driven after them. -/
theorem complete_afterLine_afterFrames (s : State) (hp : s.phase = .idle) (w : CmdWord) (upc : BitVec 4)
    (dr : BitVec 16) (script : List Answer) (frames : List Frame) (level : Level) (data : BitVec 16) :
    (((s.accept w).afterFrames upc dr .none script frames).afterLine level).complete data = { s with
      cr := w, dr := dr, upc := 0, pend := .none, mode := level, script := script, settle := s.settle.tail,
      draws := s.draws + frames.length + 1,
      device := (s.device.map (Device.takeAll frames)).map (Device.lineMoves s.mode level),
      trace := s.trace ++ .accepted w :: (frames.map .sent ++
        [.pin level, .settled, .responded ⟨0#2, data, Config.freeFinfo (s.draws + frames.length)⟩]) } := by
  simp [State.complete, State.respond, State.toIdle, State.afterFrames, State.afterLine, State.accept, Status.code, hp]

/-- What Complete leaves of a command that was Accept, the line driven, and these exchanges after it. -/
theorem complete_afterFrames_afterLine (s : State) (hp : s.phase = .idle) (w : CmdWord) (upc0 upc : BitVec 4)
    (dr0 dr : BitVec 16) (pend0 : Pend) (script0 script : List Answer) (frames : List Frame) (level : Level)
    (data : BitVec 16) :
    ((((s.accept w).afterFrames upc0 dr0 pend0 script0 []).afterLine level).afterFrames upc dr .none script
      frames).complete data = { s with
      cr := w, dr := dr, upc := 0, pend := .none, mode := level, script := script, settle := s.settle.tail,
      draws := s.draws + frames.length + 1,
      device := (s.device.map (Device.lineMoves s.mode level)).map (Device.takeAll frames),
      trace := s.trace ++ .accepted w :: .pin level :: .settled :: (frames.map .sent ++
        [.responded ⟨0#2, data, Config.freeFinfo (s.draws + frames.length)⟩]) } := by
  simp [State.complete, State.respond, State.toIdle, State.afterFrames, State.afterLine, State.accept, Status.code, hp]

/-- Settles O37: Accept, `WriteRegSeq` of 0 to OUT, the line down and the wait, Complete. -/
theorem sleepRunsToItsResponse : Obligations.SleepRunsToItsResponse := by
  unfold Obligations.SleepRunsToItsResponse
  intro a d s r0 r1 rest hp ended hs
  let i := Instr.sleep a d
  let u := s.accept (commandWord 0x7#4 a d)
  let frames := [encW RegName.out.operand 0x00#8, nopFrame]
  let written := u.afterFrames 2 s.dr .none rest frames
  refine ⟨Config.freeFinfo (s.draws + 2), s.draws + 2 + 1, ?_⟩
  calc execRepeat i 6 s
    _ = execRepeat i 5 (u.afterFrames 0 s.dr s.pend (.rx r0 :: .rx r1 :: rest) []) := execRepeat_accept rfl hp hs
    _ = execRepeat i 3 written := execRepeat_writeRegSeq rfl rfl (pre := []) rfl rfl
    _ = execRepeat i 1 (written.afterLine 0) :=
      execRepeat_pinWait rfl (s := written) rfl ended (pre := writeRegSeq RegName.out.operand 0x00#8) (post := [])
        rfl rfl
    _ = .next ((written.afterLine 0).complete 0x0000#16) := execRepeat_one_complete rfl rfl rfl
    _ = _ := congrArg Host.Outcome.next (complete_afterLine_afterFrames s hp ..)

/-- Settles O38: Accept, the line up and the wait, `ReadRegSeq` of HWCR, `WriteRegSeq` of the byte read with ACT set,
Complete. -/
theorem activeRunsToItsResponse : Obligations.ActiveRunsToItsResponse := by
  unfold Obligations.ActiveRunsToItsResponse
  intro a d s r0 r1 r2 r3 r4 rest hp ended hs
  let i := Instr.active a d
  let script := .rx r0 :: .rx r1 :: .rx r2 :: .rx r3 :: .rx r4 :: rest
  let u := (s.accept (commandWord 0x8#4 a d)).afterFrames 0 s.dr s.pend script []
  let v := u.afterLine 1
  let read := zext16 (dec r1)
  let readFrames := [encR RegName.hwcr.operand, nopFrame, nopFrame]
  let new := dec r1 ||| Config.hwcrActMask
  let writeFrames := [encW RegName.hwcr.operand new, nopFrame]
  have prog (x : BitVec 16) : progOf i x = _ := progOf_active a d x
  have prog' : progOf i read = _ := progOf_active_zext16 a d (dec r1)
  refine ⟨Config.freeFinfo (s.draws + 5), s.draws + 5 + 1, ?_⟩
  calc execRepeat i 9 s
    _ = execRepeat i 8 u := execRepeat_accept rfl hp hs
    _ = execRepeat i 6 v := execRepeat_pinWait rfl (s := u) rfl ended (pre := []) (prog s.dr) rfl
    _ = execRepeat i 6 (v.afterFrames 2 s.dr s.pend script []) :=
      congrArg (execRepeat i 6) (State.afterFrames_nil v).symm
    _ = execRepeat i 3 (v.afterFrames 5 read .none (.rx r3 :: .rx r4 :: rest) readFrames) :=
      execRepeat_readRegSeq rfl rfl (pre := [.pin 1, .wait]) rfl prog
    _ = execRepeat i 1 (v.afterFrames 7 read .none rest (readFrames ++ writeFrames)) :=
      execRepeat_writeRegSeq rfl rfl rfl prog'
    _ = .next ((v.afterFrames 7 read .none rest (readFrames ++ writeFrames)).complete 0x0000#16) :=
      execRepeat_complete rfl rfl (congrArg List.length prog').symm
    _ = _ := congrArg Host.Outcome.next (complete_afterFrames_afterLine s hp ..)

/-- The frames of register writes one after the other, each drained (R92). -/
def writeFrames (writes : List (Byte × Byte)) : List Frame := writes.flatMap fun w => [encW w.1 w.2, nopFrame]

/-- Register writes to the end of a micro-program, their exchanges returning (R92). -/
theorem execRepeat_writeSeqs {i : Instr} (hc : i.isCommand = true) {s : State} (hp : s.phase = .run) (n : Nat)
    (dr : BitVec 16) (rest : List Answer) (writes : List (Byte × Byte)) (received : List Frame)
    (hlen : received.length = 2 * writes.length) (pre : List MicroOp) (upc : BitVec 4) (hupc : upc.toNat = pre.length)
    (hprog : progOf i dr = pre ++ writeSeqs writes) (pend : Pend) (frames : List Frame) :
    ∃ upc' : BitVec 4, upc'.toNat = (progOf i dr).length ∧
      execRepeat i (n + 2 * writes.length) (s.afterFrames upc dr pend (received.map .rx ++ rest) frames) =
        execRepeat i n (s.afterFrames upc' dr (if writes.isEmpty then pend else .none) rest
          (frames ++ writeFrames writes)) := by
  induction writes generalizing received pre upc pend frames with
  | nil =>
    obtain rfl := List.length_eq_zero_iff.mp hlen
    exact ⟨upc, by rw [hupc, hprog]; simp [writeSeqs], by simp [writeFrames]⟩
  | cons w writes ih =>
    obtain _ | ⟨r0, _ | ⟨r1, received⟩⟩ := received
    · simp at hlen
    · simp at hlen; omega
    have hw : progOf i dr = pre ++ (writeRegSeq w.1 w.2 ++ writeSeqs writes) := hprog
    obtain ⟨-, -, upc2⟩ := twoOps_at i dr upc hw hupc
    have atNext : (upc + 1 + 1).toNat = (pre ++ writeRegSeq w.1 w.2).length := by
      rw [List.length_append]
      exact upc2
    have hnext : progOf i dr = pre ++ writeRegSeq w.1 w.2 ++ writeSeqs writes := by rw [hw, List.append_assoc]
    obtain ⟨upc', atEnd, run⟩ := ih received (by simpa [Nat.mul_add] using hlen) _ _ atNext hnext .none
      (frames ++ [encW w.1 w.2] ++ [nopFrame])
    refine ⟨upc', atEnd, (execRepeat_writeRegSeq hc hp hupc hw).trans (run.trans ?_)⟩
    simp [writeFrames]

/-- Settles O39: INIT is six register writes, in R122's order, and nothing else. -/
theorem initRunsToItsResponse : Obligations.InitRunsToItsResponse := by
  unfold Obligations.InitRunsToItsResponse
  intro a d s r0 r1 r2 r3 r4 r5 r6 r7 r8 r9 r10 r11 rest hp hs
  let i := Instr.init a d
  let u := s.accept (commandWord 0x9#4 a d)
  let received := [r0, r1, r2, r3, r4, r5, r6, r7, r8, r9, r10, r11]
  let frames := writeFrames initWrites
  obtain ⟨upc, atEnd, run⟩ :=
    execRepeat_writeSeqs (i := i) rfl (s := u) rfl 1 s.dr rest initWrites received rfl [] 0 rfl rfl s.pend []
  refine ⟨Config.freeFinfo (s.draws + 12), s.draws + 12 + 1, ?_⟩
  calc execRepeat i 14 s
    _ = execRepeat i 13 (u.afterFrames 0 s.dr s.pend (received.map .rx ++ rest) []) := execRepeat_accept rfl hp hs
    _ = execRepeat i 1 (u.afterFrames upc s.dr .none rest frames) := run
    _ = .next ((u.afterFrames upc s.dr .none rest frames).complete 0x0000#16) := execRepeat_complete rfl rfl atEnd
    _ = _ := congrArg Host.Outcome.next (complete_afterFrames s hp ..)

end Sys2Proof.Machine

/-! ### Exceptions: a refused word and an exchange that faults (60_exceptions.md R133, R134) -/

namespace Sys2Proof.Machine

/-- Settles O17: an unassigned op does not decode, and a word that does not decode is refused. -/
theorem illegalCommandIsRefusedAtAccept : Obligations.IllegalCommandIsRefusedAtAccept := by
  unfold Obligations.IllegalCommandIsRefusedAtAccept
  intro s w rest hlow hp ho unassigned
  have illegal : decodeCommand w = .error (.illegalOp (cmdOp w)) :=
    (exactlyTheUnassignedOpsAreIllegal w).mpr unassigned
  exact ⟨Config.freeFinfo s.draws, s.draws + 1, step_illegal s (s.rstLow_iff.mp hlow) w rest _ hp ho illegal⟩

/-- An exchange that faulted raises TransportFault once its frame is out (R36, R133). -/
theorem xfer_fault (tx : Frame) (cap : Capture) (tag : Pend) (s : State) (info : FaultInfo) (delivered : Bool)
    (h : s.answer = .fault info delivered) :
    xfer tx cap tag s = (s.exchanged tx delivered).raise (.transportFault info) := by
  simp only [xfer, h]

/-- Settles O22: the command's step is the exchange at UPC, which faulted; the record takes its frame and then the
response. -/
theorem transportFaultAbortsTheCommand : Obligations.TransportFaultAbortsTheCommand := by
  unfold Obligations.TransportFaultAbortsTheCommand
  intro i s tx cap tag info delivered hc hp hop hfault
  rw [exec_perform i s _ hc hp hop, perform, xfer_fault tx cap tag s info delivered hfault]
  simp [State.raise, State.respondFault, State.toIdle, State.exchanged, Status.code]

end Sys2Proof.Machine

/-! ### Hanging and ending (60_exceptions.md R148) -/

namespace Sys2Proof.Machine

/-- With `rst` low a step performs the micro-operation that is due (R90). -/
theorem step_due {s : State} {op : MicroOp} (hlow : ∀ delivered rest, s.rst ≠ .high delivered :: rest)
    (due : s.microOp? = some op) : step s = .next (perform op { s with rst := s.rst.tail }) := by
  have hp := State.run_of_microOp? due
  obtain ⟨i, hd, -⟩ := State.mem_progOf_of_microOp? due
  exact step_perform s hlow i op hp hd ((s.microOp?_run i hp hd).symm.trans due)

/-- A block that hangs has a micro-operation due that leaves it as it is, whatever `rst` holds. -/
theorem State.Hangs.stuck {s : State} (h : s.Hangs) :
    ∃ op, s.microOp? = some op ∧ ∀ l, perform op { s with rst := l } = { s with rst := l } := by
  rcases h with ⟨tx, cap, tag, due, never⟩ | ⟨due, never⟩
  · exact ⟨.xfer tx cap tag, due, fun l => xfer_never tx cap tag { s with rst := l } never⟩
  · exact ⟨.wait, due, fun l => waitOp_never { s with rst := l } never⟩

theorem State.Hangs.run {s : State} (h : s.Hangs) : s.phase = .run := by
  obtain ⟨op, due, -⟩ := h.stuck
  exact State.run_of_microOp? due

/-- Its step reads `rst` and does nothing else. -/
theorem State.Hangs.step {s : State} (h : s.Hangs) (hlow : ∀ delivered rest, s.rst ≠ .high delivered :: rest) :
    step s = .next { s with rst := s.rst.tail } := by
  obtain ⟨op, due, same⟩ := h.stuck
  rw [step_due hlow due, same]

/-- Settles O59, by induction on the number of steps: each reads one level of `rst`, and the block hangs on. -/
theorem hangingBlockStaysForEver : Obligations.HangingBlockStaysForEver := by
  unfold Obligations.HangingBlockStaysForEver
  intro n s hangs allLow
  refine ⟨hangs.run, ?_⟩
  induction n generalizing s with
  | zero => rfl
  | succ n ih =>
    have low (delivered : Bool) (rest : List ResetLevel) : s.rst ≠ .high delivered :: rest := fun hr => by
      cases allLow (.high delivered) (hr ▸ List.mem_cons_self)
    have hangsOn : ({ s with rst := s.rst.tail } : State).Hangs := hangs
    rw [run_succ n (hangs.step low), ih _ hangsOn fun l hl => allLow l (List.mem_of_mem_tail hl), List.drop_tail]

/-- A micro-operation leaves `rst`, and of the answers and levels to come it uses up some of the first (R36, R143). -/
theorem perform_ports (op : MicroOp) (s : State) :
    (perform op s).rst = s.rst ∧ (perform op s).script <:+ s.script ∧ (perform op s).settle <:+ s.settle := by
  cases op with
  | xfer tx cap tag =>
    simp only [perform]
    rcases xfer_cases s tx cap tag with ⟨w, _, h⟩ | ⟨info, delivered, _, h⟩ | ⟨_, h⟩ | ⟨_, h⟩ <;>
      simp [h, List.tail_suffix]
  | pin level => exact ⟨rfl, List.suffix_rfl, List.suffix_rfl⟩
  | wait =>
    simp only [perform]
    rcases waitOp_cases s with ⟨_, h⟩ | ⟨_, h⟩ | ⟨_, h⟩ <;> simp [h, List.tail_suffix]

/-- How many answers and levels of `wait_done` are still to come. -/
def State.portLength (s : State) : Nat := s.script.length + s.settle.length

theorem perform_portLength_le (op : MicroOp) (s : State) : (perform op s).portLength ≤ s.portLength := by
  obtain ⟨-, script, settle⟩ := perform_ports op s
  exact Nat.add_le_add script.length_le settle.length_le

/-- A micro-operation keeps the fairness premise: what is still to come was to come before. -/
theorem State.Fair.perform {s : State} (fair : s.Fair) (op : MicroOp) : (perform op s).Fair := by
  obtain ⟨-, script, settle⟩ := perform_ports op s
  obtain ⟨returns, rises⟩ := fair
  exact ⟨fun h => returns (script.subset h), fun h => rises (settle.subset h)⟩

/-- In a fair environment a micro-operation that holds the block uses up an answer or a level (R148). -/
theorem State.Held.portLength_lt {s : State} {op : MicroOp} (held : s.Held (perform op s)) (fair : s.Fair) :
    (perform op s).portLength < s.portLength := by
  have trace := held.trace
  obtain ⟨returns, rises⟩ := fair
  cases op with
  | xfer tx cap tag =>
    simp only [perform] at trace ⊢
    rcases xfer_cases s tx cap tag with ⟨w, _, h⟩ | ⟨info, delivered, _, h⟩ | ⟨hpending, h⟩ | ⟨hnever, h⟩ <;>
      rw [h] at trace ⊢
    · simp at trace
    · simp at trace
    · rcases s.answer_cases with ⟨rest, hs⟩ | ⟨_, hrx⟩
      · simp [State.portLength, hs]
      · cases hpending.symm.trans hrx
    · rcases s.answer_cases with ⟨rest, hs⟩ | ⟨_, hrx⟩
      · simp [hs, hnever] at returns
      · cases hnever.symm.trans hrx
  | pin level => simp [perform, pinOp] at trace
  | wait =>
    simp only [perform] at trace ⊢
    rcases waitOp_cases s with ⟨hlow, h⟩ | ⟨hnever, h⟩ | ⟨_, h⟩ <;> rw [h] at trace ⊢
    · obtain ⟨rest, hs⟩ := List.head?_eq_some_iff.mp hlow
      simp [State.portLength, hs]
    · exact absurd (List.mem_of_mem_head? hnever) rises
    · simp at trace

/-- A micro-operation that ends its command does so with a response (R133). -/
theorem perform_idle_responds (op : MicroOp) (s : State) (hp : s.phase = .run) (hidle : (perform op s).phase = .idle) :
    ∃ r, (perform op s).trace.getLast? = some (.responded r) := by
  cases op with
  | xfer tx cap tag =>
    simp only [perform] at hidle ⊢
    rcases xfer_cases s tx cap tag with ⟨w, _, h⟩ | ⟨info, delivered, _, h⟩ | ⟨_, h⟩ | ⟨_, h⟩ <;> rw [h] at hidle ⊢
    · simp [hp] at hidle
    · exact ⟨_, List.getLast?_concat⟩
    · simp [hp] at hidle
    · simp [hp] at hidle
  | pin level => simp [perform, pinOp, hp] at hidle
  | wait =>
    simp only [perform] at hidle
    rcases waitOp_cases s with ⟨_, h⟩ | ⟨_, h⟩ | ⟨_, h⟩ <;> simp [h, hp] at hidle

/-- A command runs and nothing will keep it from ending: `rst` stays low, every exchange and every wait returns. -/
structure State.RunsFairly (s : State) : Prop where
  inv : s.Inv
  run : s.phase = .run
  rst : s.rst = []
  fair : s.Fair

/-- The command is over, and the last thing the block did was to respond. -/
def State.JustResponded (s : State) : Prop := s.phase = .idle ∧ ∃ r, s.trace.getLast? = some (.responded r)

/-- A bound on the micro-operations and the waiting still to come: UPC never exceeds 12 (R12). -/
def State.stepsLeft (s : State) : Nat := s.portLength + (12 - s.upc.toNat)

/-- A fair micro-operation ends the command with a response or leaves fewer steps to come. -/
theorem State.RunsFairly.perform {s : State} {i : Instr} {op : MicroOp} (h : s.RunsFairly)
    (hd : decodeCommand s.cr = .ok i) (hop : (progOf i s.dr)[s.upc.toNat]? = some op) :
    (perform op s).JustResponded ∨ (perform op s).RunsFairly ∧ (perform op s).stepsLeft < s.stepsLeft := by
  have runsOn (run : (Machine.perform op s).phase = .run) : (Machine.perform op s).RunsFairly :=
    ⟨h.inv.perform h.run hd hop, run, (perform_ports op s).1.trans h.rst, h.fair.perform op⟩
  rcases perform_cases op s with adv | held | aborted
  · refine .inr ⟨runsOn (adv.phase.trans h.run), ?_⟩
    have inside : s.upc.toNat < (progOf i s.dr).length := (List.getElem?_eq_some_iff.mp hop).1
    have short := progOf_length_le i s.dr
    have counted : (Machine.perform op s).upc.toNat = s.upc.toNat + 1 :=
      adv.upc ▸ toNat_upc_succ i s.dr s.upc op hop
    have ports := perform_portLength_le op s
    unfold State.stepsLeft
    omega
  · refine .inr ⟨runsOn (held.phase.trans h.run), ?_⟩
    have ports := held.portLength_lt h.fair
    unfold State.stepsLeft
    rw [held.upc]
    omega
  · exact .inl ⟨aborted.phase, perform_idle_responds op s h.run aborted.phase⟩

/-- So does a step: at the end of the micro-program it is Complete, which responds (R91). -/
theorem State.RunsFairly.step {s : State} (h : s.RunsFairly) :
    ∃ t, step s = .next t ∧ (t.JustResponded ∨ t.RunsFairly ∧ t.stepsLeft < s.stepsLeft) := by
  obtain ⟨-, onTrack, -⟩ := h.inv
  obtain ⟨i, hd, hle, -⟩ := onTrack h.run
  have low (delivered : Bool) (rest : List ResetLevel) : s.rst ≠ .high delivered :: rest := by simp [h.rst]
  have same : ({ s with rst := s.rst.tail } : State) = s := by rw [h.rst, List.tail_nil, ← h.rst]
  rcases hle.lt_or_eq with inside | atEnd
  · have hop := List.getElem?_eq_getElem inside
    have hstep := step_perform s low i _ h.run hd hop
    rw [same] at hstep
    exact ⟨_, hstep, h.perform hd hop⟩
  · exact ⟨_, step_complete s low i h.run hd atEnd, .inl ⟨rfl, _, List.getLast?_concat⟩⟩

/-- A fair run of a command ends in a response, by induction on the steps left. -/
theorem State.RunsFairly.ends {s : State} (h : s.RunsFairly) :
    ∃ n t, n ≤ s.stepsLeft + 1 ∧ Host.Core.run Sys2Proof.core n s = .next t ∧ t.JustResponded := by
  induction hm : s.stepsLeft using Nat.strong_induction_on generalizing s with
  | _ m ih =>
    obtain ⟨u, hstep, responded | ⟨runsOn, fewer⟩⟩ := h.step
    · exact ⟨1, u, by omega, run_succ 0 hstep, responded⟩
    · obtain ⟨n, t, hn, hrun, responded⟩ := ih _ (hm ▸ fewer) runsOn rfl
      exact ⟨n + 1, t, by omega, (run_succ n hstep).trans hrun, responded⟩

/-- Settles O60: the steps left are at most the answers and levels in the lists and 12 micro-operations; Complete is
one more. -/
theorem fairCommandEnds : Obligations.FairCommandEnds := by
  unfold Obligations.FairCommandEnds
  intro s inv run rst fair
  obtain ⟨n, t, hn, hrun, hidle, r, hr⟩ := State.RunsFairly.ends ⟨inv, run, rst, fair⟩
  refine ⟨n, t, r, ?_, hrun, hidle, hr⟩
  unfold State.stepsLeft State.portLength at hn
  omega

end Sys2Proof.Machine
